-- ==== Sys2Proof/Word.lean ====
section
/-! DEFINITION. The word types of the link block: bytes and the 16- and 32-bit unsigned values (00_scope.md R9:
"All values in this spec are unsigned"). -/

namespace Sys2Proof

/-- An unsigned 8-bit value, 0 to 255 (R9). -/
abbrev Byte := BitVec 8

/-- An unsigned 16-bit value: an operation word (R70) or the index of a byte being sent (10_state.md R33). -/
abbrev Half := BitVec 16

/-- An unsigned 32-bit value: the widest checksum (R7). -/
abbrev Word := BitVec 32

end Sys2Proof
end

