-- ==== Sys2Proof/Config.lean ====
section
/-! DEFINITION. What an instance of the block fixes at build time (00_scope.md R7, R8), every literal of the spec as a
named constant (D36), and the free values: what the spec leaves open and the machine goes on with. -/

namespace Sys2Proof

/-- A CRC algorithm of register width `w` (40_crc.md R100). -/
structure CrcAlg (w : Nat) where
  /-- the generator polynomial in normal form, the coefficient of x^w left out -/
  poly : BitVec w
  /-- the initial register value, in normal form -/
  init : BitVec w
  /-- the mask XORed into the result by FINALIZE -/
  xorout : BitVec w
  /-- bytes enter least-significant bit first and the result is reflected -/
  reflect : Bool
deriving DecidableEq, Repr

/-- `FCRC_BYTES` of R7: "width of the trailing full-frame checksum in bytes, 1 or 4". -/
inductive FcrcBytes where
  | one
  | four
deriving DecidableEq, Repr

/-- The number of bytes `FCRC_BYTES` stands for. -/
def FcrcBytes.toNat : FcrcBytes → Nat
  | .one => 1
  | .four => 4

/-- The configuration constants of R7: the protocol generation `(MARKERS, HAS_SRC, HAS_CMD, FCRC_BYTES)` (R80), the
two start markers and the CRC algorithms. `fcrc8` is the named parameter `FCRC8` of R103 (D4). -/
structure Config where
  /-- `MARKERS`: the two start markers are present -/
  markers : Bool
  /-- `HAS_SRC`: the source address field is present -/
  hasSrc : Bool
  /-- `HAS_CMD`: the command field is present -/
  hasCmd : Bool
  /-- `FCRC_BYTES` -/
  fcrcBytes : FcrcBytes
  /-- `START0` -/
  start0 : Byte
  /-- `START1` -/
  start1 : Byte
  /-- `HCRC`, the header checksum algorithm -/
  hcrc : CrcAlg 8
  /-- `FCRC` when `FCRC_BYTES = 1` -/
  fcrc8 : CrcAlg 8
  /-- `FCRC` when `FCRC_BYTES = 4` -/
  fcrc32 : CrcAlg 32
deriving DecidableEq, Repr

/-- `HCRC` of R102. -/
def Config.hcrcAlg : CrcAlg 8 := { poly := 0x2F, init := 0xFF, xorout := 0xFF, reflect := false }

/-- The 4-byte `FCRC` of R103. -/
def Config.crc32Alg : CrcAlg 32 :=
  { poly := 0x04C11DB7, init := 0xFFFFFFFF, xorout := 0xFFFFFFFF, reflect := true }

/-- The value R7 gives each parameter for this hardware: every field present, a 4-byte `f_crc`. -/
def Config.hw : Config :=
  { markers := true, hasSrc := true, hasCmd := true, fcrcBytes := .four, start0 := 0xAA, start1 := 0x55,
    hcrc := Config.hcrcAlg, fcrc8 := Config.hcrcAlg, fcrc32 := Config.crc32Alg }

/-- `FIFO_SLOTS` of R7. -/
@[simp] abbrev Config.fifoSlots : Nat := 256

/-- `FIFO_CURSOR_BITS` of R7. -/
@[simp] abbrev Config.fifoCursorBits : Nat := 8

/-- `FIFO_USABLE` of R7: one slot is always left free. -/
@[simp] abbrev Config.fifoUsable : Nat := Config.fifoSlots - 1

/-- `PAYLOAD_CAP` of R7. -/
@[simp] abbrev Config.payloadCap : Nat := 256

/-- `PAYLOAD_LEN_BITS` of R7. -/
@[simp] abbrev Config.payloadLenBits : Nat := 8

/-- `ADDR_BITS` of R7. -/
@[simp] abbrev Config.addrBits : Nat := 16

/-- `CMD_BITS` of R7. -/
@[simp] abbrev Config.cmdBits : Nat := 16

/-- `IN_LEN_BITS` of R7. -/
@[simp] abbrev Config.inLenBits : Nat := 16

/-- A FIFO cursor, or a difference of two (10_state.md R26 to R28). -/
abbrev Cursor := BitVec Config.fifoCursorBits

/-- A `payload_len` (10_state.md R30). -/
abbrev PayloadLen := BitVec Config.payloadLenBits

/-- A node address: `src`, `dst`, or the operand of the address guard (10_state.md R30, 30_encoding.md R74). -/
abbrev Addr := BitVec Config.addrBits

/-- A command code (10_state.md R30). -/
abbrev Cmd := BitVec Config.cmdBits

/-- The receive assembly cursor (10_state.md R29). -/
abbrev InLen := BitVec Config.inLenBits

/-- `IDLE_TIMEOUT_MS` of R7: a parameter of the host, used by no operation of the block (42_datalink_rx.md R175). -/
def Config.idleTimeoutMs : Nat := 1000

/-- The two internal address spaces of 20_memory.md R50. -/
inductive Space where
  | ring
  | rxpay
deriving DecidableEq, Repr

/-- The sink's answer to one write attempt (44_datalink_tx.md R226). The error value is the sink's own and "the block
does not interpret" it. -/
inductive SinkAnswer where
  | accept
  | retry
  | error (e : Nat)
deriving DecidableEq, Repr, Inhabited

/-- Which side of the block takes the next step (20_memory.md R56, 60_exceptions.md R258): the producer port, the
consumer side, or the consumer side with `FIFO.POP` and `FIFO.AVAILABLE` taken in their micro-steps (R57, R58) and not
as the whole steps R61 allows. -/
inductive Turn where
  | producer
  | consumer
  | consumerMicro
deriving DecidableEq, Repr, Inhabited

/-- FREE VALUE (U2, U4: "any value"): what a byte of `RING` or `RXPAY` that nothing has written reads as. -/
opaque Config.freshByte : Space → Nat → Byte

/-- FREE VALUE (U9, R226: "a model draws each answer freely"): the sink's answer to an attempt the plan says nothing
about. -/
opaque Config.freeSinkAnswer : Nat → SinkAnswer

/-- FREE VALUE (U14, R258: "a model leaves the order open"): the side that steps when both have work and the plan says
nothing. -/
opaque Config.freeTurn : Nat → Turn

end Sys2Proof
end

