-- ==== Sys2Proof/Syntax.lean ====
section
/-! DEFINITION. The operations of the block, one constructor per row of spec/opcode_table.json (30_encoding.md R72), the
operand bundle (R74), requests and ports (R70, R76), frames (10_state.md R30) and the pseudo-instructions (R79). -/

namespace Sys2Proof

/-- The two request ports (R76). -/
inductive Port where
  /-- used by agent P; admits only FIFO.PUSH -/
  | producer
  /-- used by agent Q; admits every other operation -/
  | consumer
deriving DecidableEq, Repr

/-- The operations, in the order of R72's table. A byte operand is the word's `DATA` (R73); the operands of the FRAME and
TX units come in the request's bundle (R74). -/
inductive Instr where
  | crchReset
  | crchUpdate (d : Byte)
  | crchFinalize
  | crcfReset
  | crcfUpdate (d : Byte)
  | crcfFinalize
  | fifoPush (d : Byte)
  | fifoPop
  | fifoAvailable
  | rxReset
  | rxHandleByte (d : Byte)
  | guardCrc
  | guardAddr
  | frameUpdateCrc
  | txSend
deriving DecidableEq, Repr

/-- The contents of a byte-indexed space (20_memory.md R50): the bytes written so far, by rising index. A
byte that is not listed has not been written (see Machine/Ops.lean, Memory.load). -/
abbrev Memory := List Host.Cell

/-- A frame value (R30). `fCrc` holds `8·FCRC_BYTES` bits; where that is 8, the low 8. -/
structure Frame where
  src : Addr
  dst : Addr
  cmd : Cmd
  payloadLen : PayloadLen
  payload : Memory
  hCrc : Byte
  fCrc : Word
deriving DecidableEq, Repr

/-- The frame whose fields are zero and whose payload bytes nothing has written. -/
def Frame.blank : Frame :=
  { src := 0, dst := 0, cmd := 0, payloadLen := 0, payload := [], hCrc := 0, fCrc := 0 }

/-- The operand bundle (R74): the `FRAME`, `FRAME?` and `ADDR` operands. An operation reads the parts its row names and
ignores the others. -/
structure Bundle where
  frame : Frame
  frameOpt : Option Frame
  addr : Addr
deriving DecidableEq, Repr

/-- The bundle of a request that needs none. -/
def Bundle.blank : Bundle := { frame := Frame.blank, frameOpt := none, addr := 0 }

/-- An operation request (R70): a 16-bit operation word and its operand bundle. -/
structure Request where
  word : Half
  bundle : Bundle
deriving DecidableEq, Repr

/-- The pseudo-instructions of R79. -/
inductive Pseudo where
  | crchUpdateSeq (bytes : List Byte)
  | crcfUpdateSeq (bytes : List Byte)
  | crchCompute (bytes : List Byte)
  | crcfCompute (bytes : List Byte)
  | rxFeed (bytes : List Byte)
  | guardBoth (f : Option Frame) (a : Addr)
deriving DecidableEq, Repr

/-- The operands a program line gives its operation beside the byte in `DATA` (R74, R79). -/
inductive LineOperands where
  /-- none: the operation's row names no bundle -/
  | plain
  /-- a `FRAME?` the line writes -/
  | frameOpt (f : Option Frame)
  /-- the `FRAME?` the line before returned, and an `ADDR` -/
  | lastResult (a : Addr)
deriving DecidableEq, Repr

/-- A line of a host program: one operation with its operands (R79). -/
structure Line where
  op : Instr
  operands : LineOperands
deriving DecidableEq, Repr

end Sys2Proof
end

