-- ==== Sys2Proof/WellFormed.lean ====
section
/-! DEFINITION. Well-formedness. Every term of Instr is an operation (its only operands are bytes, R73), so what can be
ill-formed is what a request carries: a payload buffer that is not in canonical form or leaves the space of
20_memory.md R50, and a checksum wider than the generation's `f_crc` (10_state.md R30). -/

namespace Sys2Proof

/-- The canonical form of a memory of `size` bytes: indexes strictly rising and below the size. -/
abbrev Memory.wf (m : Memory) (size : Nat) : Prop :=
  m.Pairwise (fun x y => x.1 < y.1) ∧ ∀ c ∈ m, c.1 < size

/-- The bits an `f_crc` of the generation has: `8·FCRC_BYTES` (R30). -/
def FcrcBytes.mask : FcrcBytes → Word
  | .one => 0x000000FF
  | .four => 0xFFFFFFFF

/-- A frame of generation `c`: its payload is canonical and its `f_crc` has `8·FCRC_BYTES` bits. -/
abbrev Frame.wf (c : Config) (f : Frame) : Prop :=
  f.payload.wf Config.payloadCap ∧ f.fCrc &&& c.fcrcBytes.mask = f.fCrc

/-- A bundle whose frames are frames of generation `c`. -/
abbrev Bundle.wf (c : Config) (b : Bundle) : Prop :=
  b.frame.wf c ∧ ∀ f ∈ b.frameOpt, f.wf c

end Sys2Proof
end

