-- ==== Sys2Proof/Decode.lean ====
section
/-! DEFINITION. The decoder and the encoder of operation words (30_encoding.md R70 to R73, R77), the port each operation
is admitted on (R72, R76) and the expansion of the pseudo-instructions (R79). -/

namespace Sys2Proof

/-- Why a word matches no row of R72 (R77). -/
inductive IllegalWord where
  | reservedUnit
  | reservedOp
  | nonzeroData
deriving DecidableEq, Repr

/-- What the decoder answers for a word. -/
inductive Decoded where
  | ok (i : Instr)
  | illegal (why : IllegalWord)
deriving DecidableEq, Repr

/-- `UNIT`, bits 15:12 (R70). -/
def unitField (w : Half) : Nat := (w.extractLsb' 12 4).toNat

/-- `OP`, bits 11:8 (R70). -/
def opField (w : Half) : Nat := (w.extractLsb' 8 4).toNat

/-- `DATA`, bits 7:0 (R70), used without extension (R73). -/
def dataField (w : Half) : Byte := w.extractLsb' 0 8

/-- A row whose `DATA` must be zero (R73, R77). -/
def decodePlain (i : Instr) (d : Byte) : Decoded :=
  if d = 0 then .ok i else .illegal .nonzeroData

/-- Unit 0x1, CRC_H (R71, R72). -/
def decodeCrcH (op : Nat) (d : Byte) : Decoded :=
  match op with
  | 0 => decodePlain .crchReset d
  | 1 => .ok (.crchUpdate d)
  | 2 => decodePlain .crchFinalize d
  | _ => .illegal .reservedOp

/-- Unit 0x2, CRC_F. -/
def decodeCrcF (op : Nat) (d : Byte) : Decoded :=
  match op with
  | 0 => decodePlain .crcfReset d
  | 1 => .ok (.crcfUpdate d)
  | 2 => decodePlain .crcfFinalize d
  | _ => .illegal .reservedOp

/-- Unit 0x3, FIFO. -/
def decodeFifo (op : Nat) (d : Byte) : Decoded :=
  match op with
  | 1 => .ok (.fifoPush d)
  | 2 => decodePlain .fifoPop d
  | 3 => decodePlain .fifoAvailable d
  | _ => .illegal .reservedOp

/-- Unit 0x4, RX. -/
def decodeRx (op : Nat) (d : Byte) : Decoded :=
  match op with
  | 0 => decodePlain .rxReset d
  | 1 => .ok (.rxHandleByte d)
  | _ => .illegal .reservedOp

/-- Unit 0x5, FRAME. -/
def decodeFrame (op : Nat) (d : Byte) : Decoded :=
  match op with
  | 1 => decodePlain .guardCrc d
  | 2 => decodePlain .guardAddr d
  | 3 => decodePlain .frameUpdateCrc d
  | _ => .illegal .reservedOp

/-- Unit 0x6, TX. -/
def decodeTx (op : Nat) (d : Byte) : Decoded :=
  match op with
  | 1 => decodePlain .txSend d
  | _ => .illegal .reservedOp

/-- The decoder, total on every word: an operation, or why the word is illegal (R72, R77). -/
def decode (w : Half) : Decoded :=
  match unitField w with
  | 1 => decodeCrcH (opField w) (dataField w)
  | 2 => decodeCrcF (opField w) (dataField w)
  | 3 => decodeFifo (opField w) (dataField w)
  | 4 => decodeRx (opField w) (dataField w)
  | 5 => decodeFrame (opField w) (dataField w)
  | 6 => decodeTx (opField w) (dataField w)
  | _ => .illegal .reservedUnit

/-- The `match` and `mask` columns of an operation's row (R72). -/
structure TableRow where
  pattern : Half
  mask : Half
deriving DecidableEq, Repr

/-- The row of R72's table an operation stands in. -/
def Instr.row : Instr → TableRow
  | .crchReset => { pattern := 0x1000, mask := 0xFFFF }
  | .crchUpdate _ => { pattern := 0x1100, mask := 0xFF00 }
  | .crchFinalize => { pattern := 0x1200, mask := 0xFFFF }
  | .crcfReset => { pattern := 0x2000, mask := 0xFFFF }
  | .crcfUpdate _ => { pattern := 0x2100, mask := 0xFF00 }
  | .crcfFinalize => { pattern := 0x2200, mask := 0xFFFF }
  | .fifoPush _ => { pattern := 0x3100, mask := 0xFF00 }
  | .fifoPop => { pattern := 0x3200, mask := 0xFFFF }
  | .fifoAvailable => { pattern := 0x3300, mask := 0xFFFF }
  | .rxReset => { pattern := 0x4000, mask := 0xFFFF }
  | .rxHandleByte _ => { pattern := 0x4100, mask := 0xFF00 }
  | .guardCrc => { pattern := 0x5100, mask := 0xFFFF }
  | .guardAddr => { pattern := 0x5200, mask := 0xFFFF }
  | .frameUpdateCrc => { pattern := 0x5300, mask := 0xFFFF }
  | .txSend => { pattern := 0x6100, mask := 0xFFFF }

/-- The byte operand an operation carries in `DATA`; zero where it carries none (R73). -/
def Instr.data : Instr → Byte
  | .crchUpdate d | .crcfUpdate d | .fifoPush d | .rxHandleByte d => d
  | .crchReset | .crchFinalize | .crcfReset | .crcfFinalize | .fifoPop | .fifoAvailable | .rxReset | .guardCrc
  | .guardAddr | .frameUpdateCrc | .txSend => 0

/-- The encoder: the operation word of an operation (R72, R73). -/
def encode (i : Instr) : Half := i.row.pattern ||| i.data.setWidth 16

/-- The `port` column of R72 (R76). -/
def Instr.port : Instr → Port
  | .fifoPush _ => .producer
  | .crchReset | .crchUpdate _ | .crchFinalize | .crcfReset | .crcfUpdate _ | .crcfFinalize | .fifoPop | .fifoAvailable
  | .rxReset | .rxHandleByte _ | .guardCrc | .guardAddr | .frameUpdateCrc | .txSend => .consumer

/-- The operations a pseudo-instruction expands to (R79). -/
def Pseudo.expand : Pseudo → List Instr
  | .crchUpdateSeq bytes => bytes.map .crchUpdate
  | .crcfUpdateSeq bytes => bytes.map .crcfUpdate
  | .crchCompute bytes => [.crchReset] ++ bytes.map .crchUpdate ++ [.crchFinalize]
  | .crcfCompute bytes => [.crcfReset] ++ bytes.map .crcfUpdate ++ [.crcfFinalize]
  | .rxFeed bytes => bytes.map .rxHandleByte
  | .guardBoth _ _ => [.guardCrc, .guardAddr]

/-- The lines a pseudo-instruction expands to (R79): its operations with their operands. `GUARD.BOTH f, a` is
`t <- GUARD.CRC f` and then `g <- GUARD.ADDR t, a`. -/
def Pseudo.lines : Pseudo → List Line
  | .guardBoth f a =>
    [{ op := .guardCrc, operands := .frameOpt f }, { op := .guardAddr, operands := .lastResult a }]
  | .crchUpdateSeq bytes => plainLines (Pseudo.crchUpdateSeq bytes).expand
  | .crcfUpdateSeq bytes => plainLines (Pseudo.crcfUpdateSeq bytes).expand
  | .crchCompute bytes => plainLines (Pseudo.crchCompute bytes).expand
  | .crcfCompute bytes => plainLines (Pseudo.crcfCompute bytes).expand
  | .rxFeed bytes => plainLines (Pseudo.rxFeed bytes).expand
where
  /-- Lines whose operations name no bundle. -/
  plainLines (ops : List Instr) : List Line := ops.map (fun i => { op := i, operands := .plain })

/-- The word of a table row given by its `nbits` low bits: an operation word is one 16-bit word (R70), so a longer one is
none. -/
def tableWord (nbits w : Nat) : Option Half :=
  if nbits ≤ 16 then some (BitVec.ofNat 16 (w % 2 ^ nbits)) else none

/-- The operation the decoder reads from a table word; none where it refuses. -/
def decodeTableWord (nbits w : Nat) : Option Instr :=
  match tableWord nbits w with
  | none => none
  | some v =>
    match decode v with
    | .ok i => some i
    | .illegal _ => none

end Sys2Proof
end

