-- ==== Sys2Proof/Machine/Bits.lean ====
section
/-! DEFINITION. Bit and byte-order helpers: the notation of 00_scope.md R9, R10 and the little-endian assembly of
30_encoding.md R86. -/

namespace Sys2Proof.Machine

/-- `reflect_W(v)` (R10): bit `i` moves to bit `W−1−i`. -/
def reflectBits {w : Nat} (v : BitVec w) : BitVec w := v.reverse

/-- Byte lane `k` of a value, `v[8k+7 : 8k]` (R9). -/
def byteLane {w : Nat} (v : BitVec w) (k : Nat) : Byte := v.extractLsb' (8 * k) 8

/-- `leN(v, n)` (R10): the first `n` bytes of the little-endian expansion of `v`. -/
def leBytes {w : Nat} (v : BitVec w) (n : Nat) : List Byte := (List.range n).map (byteLane v)

/-- The number of bytes a field of `bits` bits takes on the wire. -/
def fieldBytes (bits : Nat) : Nat := bits / 8

/-- A value as a whole field on the wire, low byte first (20_memory.md R51): `le16(v)` of R10 for a 16-bit value, `[v]` for a
byte. -/
def leField {w : Nat} (v : BitVec w) : List Byte := leBytes v (fieldBytes w)

/-- `v` with byte lane `k` replaced by `d`: `v[8k+7:8k] <- d`. A lane `v` does not have is not written. -/
def setLane {w : Nat} (v : BitVec w) (k : Nat) (d : Byte) : BitVec w :=
  (v &&& ~~~((0xFF : BitVec w) <<< (8 * k))) ||| (d.setWidth w <<< (8 * k))

end Sys2Proof.Machine
end

