-- ==== Sys2Proof/Machine/CrcAlgorithm.lean ====
section
/-! DEFINITION. The configurable CRC (40_crc.md): the register operations of R104 to R107 for any algorithm, the pure
function of R108, and the full-frame algorithm a configuration selects (R103). -/

namespace Sys2Proof.Machine

/-- The register value RESET loads (R104): `REFLECT ? reflect_W(INIT) : INIT`. -/
def crcInit {w : Nat} (a : CrcAlg w) : BitVec w :=
  if a.reflect then reflectBits a.init else a.init

/-- One shift/reduce step, plain (R105) or reflected (R106). -/
def crcShift {w : Nat} (a : CrcAlg w) (r : BitVec w) : BitVec w :=
  if a.reflect then
    if r.getLsbD 0 then (r >>> 1) ^^^ reflectBits a.poly else r >>> 1
  else
    if r.getLsbD (w - 1) then (r <<< 1) ^^^ a.poly else r <<< 1

/-- `n` shift/reduce steps. -/
def crcShifts {w : Nat} (a : CrcAlg w) : Nat → BitVec w → BitVec w
  | 0, r => r
  | n + 1, r => crcShifts a n (crcShift a r)

/-- The byte XORed into the register: into the top 8 bits (R105), or the low 8 bits when reflected (R106). -/
def crcAbsorb {w : Nat} (a : CrcAlg w) (r : BitVec w) (d : Byte) : BitVec w :=
  if a.reflect then r ^^^ d.setWidth w else r ^^^ (d.setWidth w <<< (w - 8))

/-- `UpdateStep(alg, r, d)` (R105, R106, R108): the byte in, then eight steps. -/
def crcUpdate {w : Nat} (a : CrcAlg w) (r : BitVec w) (d : Byte) : BitVec w :=
  crcShifts a 8 (crcAbsorb a r d)

/-- What FINALIZE returns (R107): no further reflection is applied. -/
def crcFinal {w : Nat} (a : CrcAlg w) (r : BitVec w) : BitVec w := r ^^^ a.xorout

/-- The register after the bytes, from `r` (R109). -/
def crcFold {w : Nat} (a : CrcAlg w) (r : BitVec w) (bytes : List Byte) : BitVec w :=
  bytes.foldl (crcUpdate a) r

/-- `CRC(alg, bytes)` (R108). -/
def crcOf {w : Nat} (a : CrcAlg w) (bytes : List Byte) : BitVec w :=
  crcFinal a (crcFold a (crcInit a) bytes)

/-- `CRC(FCRC, bytes)` of a configuration (R103). With `FCRC_BYTES = 1` the value has 8 bits. -/
def fcrcOf (c : Config) (bytes : List Byte) : Word :=
  match c.fcrcBytes with
  | .one => (crcOf c.fcrc8 bytes).setWidth 32
  | .four => crcOf c.fcrc32 bytes

/-- The register value CRC_F.RESET loads (R104, 10_state.md R23). -/
def fcrcInit (c : Config) : Word :=
  match c.fcrcBytes with
  | .one => (crcInit c.fcrc8).setWidth 32
  | .four => crcInit c.fcrc32

/-- The register after CRC_F.UPDATE (R105, R106). -/
def fcrcUpdate (c : Config) (r : Word) (d : Byte) : Word :=
  match c.fcrcBytes with
  | .one => (crcUpdate c.fcrc8 (r.setWidth 8) d).setWidth 32
  | .four => crcUpdate c.fcrc32 r d

/-- What CRC_F.FINALIZE returns (R107). -/
def fcrcFinal (c : Config) (r : Word) : Word :=
  match c.fcrcBytes with
  | .one => (crcFinal c.fcrc8 (r.setWidth 8)).setWidth 32
  | .four => crcFinal c.fcrc32 r

end Sys2Proof.Machine
end

