-- ==== Sys2Proof/Machine/State.lean ====
section
/-! DEFINITION. The machine's state as plain data: the elements of 10_state.md R20, the ports and their results, what the
environment has planned, and the state after block reset (70_reset_and_hazards.md R280, R281). -/

namespace Sys2Proof.Machine

/-- The faults of a step: none. The block has no trap (60_exceptions.md R254), and 93_implementation_defined.md says of
`fault`: "not used: the block has no fault that stops it". Nothing raises one. -/
inductive Fault where
deriving DecidableEq, Repr

/-- The refusals of a step. -/
inductive Refusal where
  /-- Raised by exec's arm for an operation that has no meaning yet; safe. No arm raises it now. -/
  | notModelled (mnemonic : String)
deriving DecidableEq, Repr

/-- The outcome codes of R250. The four framing codes are ghost events only (R251). -/
inductive OutcomeCode where
  | ok
  | fifoFull
  | fifoEmpty
  | markerMismatch
  | hcrcMismatch
  | fcrcMismatch
  | addrMismatch
  | transportError
  | illegalOp
  | portViolation
deriving DecidableEq, Repr

/-- The result an operation returns to the agent that issued it (30_encoding.md R72, R75), or its refusal (R76, R77). -/
inductive Result where
  /-- completion only: the `none` of R72's result column -/
  | done
  /-- CRC_H.FINALIZE's 8-bit value -/
  | crcH (v : Byte)
  /-- CRC_F.FINALIZE's `FCRC.W`-bit value -/
  | crcF (v : Word)
  /-- FIFO.PUSH's boolean -/
  | pushed (accepted : Bool)
  /-- FIFO.POP's optional byte -/
  | popped (b : Option Byte)
  /-- FIFO.AVAILABLE's count -/
  | count (n : Cursor)
  /-- the optional frame of RX.HANDLE_BYTE and the guards -/
  | frameOpt (f : Option Frame)
  /-- FRAME.UPDATE_CRC's frame -/
  | frame (f : Frame)
  /-- TX.SEND's `OK` -/
  | sent
  /-- TX.SEND's `TRANSPORT_ERROR(e)` -/
  | transportError (e : Nat)
  /-- `ILLEGAL_OP`, with the operation word -/
  | illegalOp (w : Half)
  /-- `PORT_VIOLATION`, with the operation word and the port -/
  | portViolation (w : Half) (p : Port)
deriving DecidableEq, Repr

/-- How far a FIFO.POP or FIFO.AVAILABLE taken in micro-steps has come (20_memory.md R57, R58). -/
inductive QPhase where
  /-- no operation in micro-steps is in progress -/
  | idle
  /-- FIFO.POP after Q1: the value read from `pos_in` -/
  | popRead (p : Cursor)
  /-- FIFO.POP after Q2 found the FIFO not empty -/
  | popNonEmpty
  /-- FIFO.POP after Q3: the byte read -/
  | popHave (b : Byte)
  /-- FIFO.AVAILABLE after Q1: the value read from `pos_in` -/
  | availRead (p : Cursor)
deriving DecidableEq, Repr

/-- The machine. The fields `crchReg` to `txIdx` are the block's state, all of it (R20); `cfg` is what the instance was
built with (00_scope.md R7); the others are the ports, the environment and the record of the run. -/
structure State where
  /-- the build-time configuration; nothing writes it -/
  cfg : Config
  /-- `S.crch_reg` (10_state.md R22) -/
  crchReg : Byte
  /-- `S.crcf_reg` (R23) -/
  crcfReg : Word
  /-- `RING` (R25) -/
  ring : Memory
  /-- `S.pos_in` (R26) -/
  posIn : Cursor
  /-- `S.pos_out` (R27) -/
  posOut : Cursor
  /-- `S.in_len` (R29) -/
  inLen : InLen
  /-- `S.rx` (R31); its payload is the space `RXPAY` -/
  rx : Frame
  /-- `S.tx_busy` (R33) -/
  txBusy : Bool
  /-- `S.tx_bytes` (R33) -/
  txBytes : List Byte
  /-- `S.tx_idx` (R33) -/
  txIdx : Half
  /-- the requests waiting on the producer port, oldest first (30_encoding.md R76) -/
  pReqs : List Request
  /-- the requests waiting on the consumer port, oldest first -/
  qReqs : List Request
  /-- the port of the request being served -/
  opPort : Port
  /-- the operand bundle of the request being served (R74) -/
  bundle : Bundle
  /-- the micro-step reached on the consumer side -/
  qPhase : QPhase
  /-- the results returned to agent P, oldest first (R75) -/
  pOut : List Result
  /-- the results returned to agent Q, oldest first -/
  qOut : List Result
  /-- the environment's plan of which side steps next; once empty, R258's order is a free value -/
  turns : List Turn
  /-- the environment's plan of the sink's answers; once empty, R226's answers are free values -/
  sinkIn : List SinkAnswer
  /-- the counter the free values are drawn with -/
  freeIx : Nat
  /-- the bytes offered to the sink with its answers, oldest first (44_datalink_tx.md R224); nothing reads it -/
  sinkLog : List (Byte × SinkAnswer)
  /-- the run has refused a request (60_exceptions.md R257) -/
  refusalMark : Bool
  /-- the outcome codes of R250 so far, oldest first; nothing reads it (R251) -/
  ghost : List OutcomeCode
deriving DecidableEq, Repr

/-- An instance of the block built with configuration `c`, right after block reset (R280, R281). The header fields of
`rx` have no value in the spec: zero is this model's choice (log 3). -/
def State.resetWith (c : Config) : State :=
  { cfg := c, crchReg := crcInit c.hcrc, crcfReg := fcrcInit c, ring := [], posIn := 0, posOut := 0, inLen := 0,
    rx := Frame.blank, txBusy := false, txBytes := [], txIdx := 0, pReqs := [], qReqs := [], opPort := .consumer,
    bundle := Bundle.blank, qPhase := .idle, pOut := [], qOut := [], turns := [], sinkIn := [], freeIx := 0,
    sinkLog := [], refusalMark := false, ghost := [] }

/-- This hardware after block reset: R281 with the configuration of R7. -/
def State.reset : State := State.resetWith Config.hw

end Sys2Proof.Machine
end

