-- ==== Sys2Proof/Machine/Ops.lean ====
section
/-! DEFINITION. The named operations over the two byte spaces (20_memory.md R50), the numeric outcome codes
(60_exceptions.md R250), and how an operation ends: with its result (30_encoding.md R75) or refused (R76, R77, R257).
The block has no trap (R254, R255), so these two endings stand where another machine takes an exception. -/

namespace Sys2Proof

/-- The byte at index `a`, where one has been written. -/
def Memory.read? : Memory → Nat → Option Byte
  | [], _ => none
  | c :: m, a => if c.1 = a then some c.2 else Memory.read? m a

/-- What a byte that nothing has written reads as: a free value (U2, U4; log 2). -/
def Memory.unlisted (sp : Space) (a : Nat) : Byte := Config.freshByte sp a

/-- `MemRead(sp:a, 1)` (00_scope.md R11). -/
def Memory.load (sp : Space) (m : Memory) (a : Nat) : Byte :=
  (m.read? a).getD (Memory.unlisted sp a)

/-- `MemWrite(sp:a, 1, b)` (R11), keeping the indexes rising. -/
def Memory.store : Memory → Nat → Byte → Memory
  | [], a, b => [(a, b)]
  | c :: m, a, b =>
    if a < c.1 then (a, b) :: c :: m
    else if a = c.1 then (a, b) :: m
    else c :: Memory.store m a b

end Sys2Proof

namespace Sys2Proof.Machine

/-- The numeric codes of R250. -/
def OutcomeCode.code : OutcomeCode → Byte
  | .ok => 0x00
  | .fifoFull => 0x01
  | .fifoEmpty => 0x02
  | .markerMismatch => 0x10
  | .hcrcMismatch => 0x11
  | .fcrcMismatch => 0x12
  | .addrMismatch => 0x13
  | .transportError => 0x20
  | .illegalOp => 0x30
  | .portViolation => 0x31

/-- Ends an operation: its result goes to the agent of the port (R75), its outcome code to the ghost record (R250). -/
def State.reply (s : State) (p : Port) (r : Result) (c : OutcomeCode) : State :=
  match p with
  | .producer => { s with pOut := s.pOut ++ [r], ghost := s.ghost ++ [c] }
  | .consumer => { s with qOut := s.qOut ++ [r], ghost := s.ghost ++ [c] }

/-- Ends a refused request (R257): no state of the block changes, the run is marked, the agent gets the refusal as its
result (R75, R254). -/
def State.refuse (s : State) (p : Port) (r : Result) (c : OutcomeCode) : State :=
  ({ s with refusalMark := true } : State).reply p r c

/-- A word that matches no row of R72 (R77). -/
def State.illegalOp (s : State) (p : Port) (w : Half) : State := s.refuse p (.illegalOp w) .illegalOp

/-- An operation on the other port (R76). -/
def State.portViolation (s : State) (i : Instr) : State :=
  s.refuse s.opPort (.portViolation (encode i) s.opPort) .portViolation

/-- The port check (R76, R259): operation `i` has the effect `t` when its request stands on the port that admits it, and
is refused otherwise. -/
def State.checkPort (s : State) (i : Instr) (t : State) : State :=
  if s.opPort = i.port then t else s.portViolation i

end Sys2Proof.Machine
end

