-- ==== Sys2Proof/Machine/Operands.lean ====
section
/-! DEFINITION. Operand forms: the parts of the operand bundle (30_encoding.md R74). The byte operand of `DATA` (R73) is
a field of the operation itself (Decode.lean, dataField). -/

namespace Sys2Proof.Machine

/-- The `FRAME` operand. -/
def State.frameOperand (s : State) : Frame := s.bundle.frame

/-- The `FRAME?` operand. -/
def State.frameOptOperand (s : State) : Option Frame := s.bundle.frameOpt

/-- The `ADDR` operand. -/
def State.addrOperand (s : State) : Addr := s.bundle.addr

/-- The optional frame a program line returned, given the results so far. A result of another form gives none (log 6); in
`GUARD.BOTH` the result is always an optional frame. -/
def lastFrameOpt (results : List Result) : Option Frame :=
  match results.getLast? with
  | some (.frameOpt f) => f
  | _ => none

/-- The bundle of a program line, as the host makes it (R74, R79) from the results agent Q has been given. -/
def State.lineBundle (s : State) : LineOperands → Bundle
  | .plain => s.bundle
  | .frameOpt f => { s.bundle with frameOpt := f }
  | .lastResult a => { s.bundle with frameOpt := lastFrameOpt s.qOut, addr := a }

end Sys2Proof.Machine
end

