-- ==== Sys2Proof/Machine/Crc.lean ====
section
/-! DEFINITION. The CRC_H and CRC_F operations (40_crc.md R104 to R107). -/

namespace Sys2Proof.Machine

/-- CRC_H.RESET (R104). -/
def execCrchReset (s : State) : Host.Outcome State Fault Refusal :=
  .next (s.checkPort .crchReset (({ s with crchReg := crcInit s.cfg.hcrc } : State).reply .consumer .done .ok))

/-- CRC_H.UPDATE d (R105, R106). -/
def execCrchUpdate (d : Byte) (s : State) : Host.Outcome State Fault Refusal :=
  .next (s.checkPort (.crchUpdate d)
    (({ s with crchReg := crcUpdate s.cfg.hcrc s.crchReg d } : State).reply .consumer .done .ok))

/-- CRC_H.FINALIZE (R107). -/
def execCrchFinalize (s : State) : Host.Outcome State Fault Refusal :=
  .next (s.checkPort .crchFinalize (s.reply .consumer (.crcH (crcFinal s.cfg.hcrc s.crchReg)) .ok))

/-- CRC_F.RESET (R104). -/
def execCrcfReset (s : State) : Host.Outcome State Fault Refusal :=
  .next (s.checkPort .crcfReset (({ s with crcfReg := fcrcInit s.cfg } : State).reply .consumer .done .ok))

/-- CRC_F.UPDATE d (R105, R106). -/
def execCrcfUpdate (d : Byte) (s : State) : Host.Outcome State Fault Refusal :=
  .next (s.checkPort (.crcfUpdate d)
    (({ s with crcfReg := fcrcUpdate s.cfg s.crcfReg d } : State).reply .consumer .done .ok))

/-- CRC_F.FINALIZE (R107). -/
def execCrcfFinalize (s : State) : Host.Outcome State Fault Refusal :=
  .next (s.checkPort .crcfFinalize (s.reply .consumer (.crcF (fcrcFinal s.cfg s.crcfReg)) .ok))

end Sys2Proof.Machine
end

