-- ==== Sys2Proof/Machine/Flags.lean ====
section
/-! DEFINITION. The block has no flag register (10_state.md R34). The FIFO's status is "a function of the two cursors,
evaluated whenever an operation needs it" (R28): these are its functions. -/

namespace Sys2Proof.Machine

/-- `empty` of R28. -/
def fifoEmpty (posIn posOut : Cursor) : Bool := posIn == posOut

/-- A cursor advanced by one slot, `(p + 1) mod FIFO_SLOTS` (R26, R27). -/
def nextCursor (p : Cursor) : Cursor := BitVec.ofNat Config.fifoCursorBits ((p.toNat + 1) % Config.fifoSlots)

/-- `full` of R28: one slot is always left free. -/
def fifoFull (posIn posOut : Cursor) : Bool := nextCursor posIn == posOut

/-- `count` of R28, `(pos_in − pos_out) mod FIFO_SLOTS`, a wrap-safe subtraction. -/
def fifoCount (posIn posOut : Cursor) : Cursor :=
  BitVec.ofNat Config.fifoCursorBits ((posIn.toNat + Config.fifoSlots - posOut.toNat) % Config.fifoSlots)

end Sys2Proof.Machine
end

