-- ==== Sys2Proof/Machine/Fifo.lean ====
section
/-! DEFINITION. The FIFO operations (41_fifo.md R131 to R133), and the micro-steps of FIFO.POP and FIFO.AVAILABLE
(20_memory.md R57, R58), which leave room for pushes between them (R56). -/

namespace Sys2Proof.Machine

/-- The slot FIFO.POP reads, `MemRead(RING:S.pos_out, 1)`. -/
def State.oldestByte (s : State) : Byte := s.ring.load .ring s.posOut.toNat

/-- The effect of FIFO.PUSH (R131): the slot is written, then published. -/
def State.push (s : State) (d : Byte) : State :=
  if fifoFull s.posIn s.posOut then s.reply .producer (.pushed false) .fifoFull
  else
    ({ s with ring := s.ring.store s.posIn.toNat d, posIn := nextCursor s.posIn } : State).reply .producer (.pushed true) .ok

/-- The end of a FIFO.POP that found a byte (R57, Q4). -/
def State.popEnd (s : State) (b : Byte) : State :=
  ({ s with posOut := nextCursor s.posOut } : State).reply .consumer (.popped (some b)) .ok

/-- The end of a FIFO.POP that found none (R57, Q2). -/
def State.popNone (s : State) : State := s.reply .consumer (.popped none) .fifoEmpty

/-- The effect of FIFO.POP as one step (R132, allowed by 20_memory.md R61). -/
def State.pop (s : State) : State :=
  if fifoEmpty s.posIn s.posOut then s.popNone else s.popEnd s.oldestByte

/-- The end of FIFO.AVAILABLE (R58), from the value `p` read at Q1. -/
def State.available (s : State) (p : Cursor) : State := s.reply .consumer (.count (fifoCount p s.posOut)) .ok

/-- FIFO.PUSH d (R131). -/
def execFifoPush (d : Byte) (s : State) : Host.Outcome State Fault Refusal :=
  .next (s.checkPort (.fifoPush d) (s.push d))

/-- FIFO.POP (R132). -/
def execFifoPop (s : State) : Host.Outcome State Fault Refusal :=
  .next (s.checkPort .fifoPop s.pop)

/-- FIFO.AVAILABLE (R133). -/
def execFifoAvailable (s : State) : Host.Outcome State Fault Refusal :=
  .next (s.checkPort .fifoAvailable (s.available s.posIn))

/-- Micro-step Q1 of FIFO.POP (R57): one read of `pos_in`. -/
def State.popQ1 (s : State) : State := { s with qPhase := .popRead s.posIn }

/-- Micro-step Q1 of FIFO.AVAILABLE (R58). -/
def State.availableQ1 (s : State) : State := { s with qPhase := .availRead s.posIn }

/-- The micro-step after the one `qPhase` names: Q2, Q3, Q4 of FIFO.POP, or the result of FIFO.AVAILABLE. -/
def State.microStep (s : State) : State :=
  match s.qPhase with
  | .idle => s
  | .popRead p =>
    if fifoEmpty p s.posOut then ({ s with qPhase := .idle } : State).popNone
    else { s with qPhase := .popNonEmpty }
  | .popNonEmpty => { s with qPhase := .popHave s.oldestByte }
  | .popHave b => ({ s with qPhase := .idle } : State).popEnd b
  | .availRead p => ({ s with qPhase := .idle } : State).available p

end Sys2Proof.Machine
end

