-- ==== Sys2Proof/Machine/Wire.lean ====
section
/-! DEFINITION. The wire frame of a generation: the derived sizes of 00_scope.md R8, the field offsets of 30_encoding.md
R81, and the byte sequences of R84 and R85. -/

namespace Sys2Proof.Machine

/-- The length of a part of the wire frame that is present or not (R81). -/
def sizeIf (present : Bool) (size : Nat) : Nat := if present then size else 0

/-- `o_src` (R81), after the two markers. -/
def srcAt (c : Config) : Nat := sizeIf c.markers 2

/-- `o_dst` (R81). -/
def dstAt (c : Config) : Nat := srcAt c + sizeIf c.hasSrc (fieldBytes Config.addrBits)

/-- `o_cmd` (R81). -/
def cmdAt (c : Config) : Nat := dstAt c + fieldBytes Config.addrBits

/-- `o_len` (R81). -/
def lenAt (c : Config) : Nat := cmdAt c + sizeIf c.hasCmd (fieldBytes Config.cmdBits)

/-- `o_h` (R81), the position of the header checksum; it equals `HDR_FIELDS` (R8). -/
def hcrcAt (c : Config) : Nat := lenAt c + fieldBytes Config.payloadLenBits

/-- `H`, the header size (R8). -/
def headerSize (c : Config) : Nat := hcrcAt c + 1

/-- `N(len)`, the wire length of a frame (R8). -/
def wireLength (c : Config) (len : PayloadLen) : Nat := headerSize c + len.toNat + c.fcrcBytes.toNat

/-- Payload byte `j` of a frame (10_state.md R30). -/
def payloadByte (f : Frame) (j : Nat) : Byte := f.payload.load .rxpay j

/-- `f.payload[0 .. f.payload_len)`. -/
def usedPayload (f : Frame) : List Byte := (List.range f.payloadLen.toNat).map (payloadByte f)

/-- A field that is on the wire only when present. -/
def bytesIf (present : Bool) (bytes : List Byte) : List Byte := if present then bytes else []

/-- `HeaderBytes(f)` (R84). -/
def headerBytes (c : Config) (f : Frame) : List Byte :=
  bytesIf c.markers [c.start0, c.start1] ++ bytesIf c.hasSrc (leField f.src) ++ leField f.dst ++
    bytesIf c.hasCmd (leField f.cmd) ++ leField f.payloadLen

/-- `FcrcBytes(f)` (R85). -/
def coveredBytes (c : Config) (f : Frame) : List Byte := headerBytes c f ++ [f.hCrc] ++ usedPayload f

/-- `WireBytes(f)` (R85). -/
def wireBytes (c : Config) (f : Frame) : List Byte := coveredBytes c f ++ leBytes f.fCrc c.fcrcBytes.toNat

/-- `FRAME.UPDATE_CRC` as a function (44_datalink_tx.md R221): both checksums, the second over the new first. -/
def withChecksums (c : Config) (f : Frame) : Frame :=
  let g := { f with hCrc := crcOf c.hcrc (headerBytes c f) }
  { g with fCrc := fcrcOf c (coveredBytes c g) }

end Sys2Proof.Machine
end

