-- ==== Sys2Proof/Machine/Guard.lean ====
section
/-! DEFINITION. The guards and the checksum update, the combinational units of the FRAME unit (43_datalink_guards.md R200
to R202, 44_datalink_tx.md R221). -/

namespace Sys2Proof.Machine

/-- The checksum guard compares the recomputed full-frame checksum with the frame's, on `8·FCRC_BYTES` bits (R201). -/
def fcrcMatches (c : Config) (f : Frame) : Bool :=
  fcrcOf c (coveredBytes c f) == f.fCrc &&& c.fcrcBytes.mask

/-- GUARD.CRC as a function (R201). -/
def guardCrc (c : Config) : Option Frame → Option Frame
  | none => none
  | some f => if fcrcMatches c f then some f else none

/-- GUARD.ADDR as a function (R202): every bit, no special address. -/
def guardAddr (a : Addr) : Option Frame → Option Frame
  | none => none
  | some f => if f.dst = a then some f else none

/-- The ghost code of a guard (R250, R251): its mismatch code when it discards a frame. -/
def guardCode (operand result : Option Frame) (mismatch : OutcomeCode) : OutcomeCode :=
  if operand.isSome && result.isNone then mismatch else .ok

/-- GUARD.CRC (R201). -/
def execGuardCrc (s : State) : Host.Outcome State Fault Refusal :=
  .next (s.checkPort .guardCrc (s.reply .consumer (.frameOpt (guardCrc s.cfg s.frameOptOperand))
    (guardCode s.frameOptOperand (guardCrc s.cfg s.frameOptOperand) .fcrcMismatch)))

/-- GUARD.ADDR (R202). -/
def execGuardAddr (s : State) : Host.Outcome State Fault Refusal :=
  .next (s.checkPort .guardAddr (s.reply .consumer (.frameOpt (guardAddr s.addrOperand s.frameOptOperand))
    (guardCode s.frameOptOperand (guardAddr s.addrOperand s.frameOptOperand) .addrMismatch)))

/-- FRAME.UPDATE_CRC (44_datalink_tx.md R221). -/
def execFrameUpdateCrc (s : State) : Host.Outcome State Fault Refusal :=
  .next (s.checkPort .frameUpdateCrc (s.reply .consumer (.frame (withChecksums s.cfg s.frameOperand)) .ok))

end Sys2Proof.Machine
end

