-- ==== Sys2Proof/Machine/Rx.lean ====
section
/-! DEFINITION. The receive state machine (42_datalink_rx.md): RX.HANDLE_BYTE (R162) and RX.RESET (R171). -/

namespace Sys2Proof.Machine

/-- What one byte does to the parser: the new `S.in_len` and `S.rx`, the result, and the ghost outcome code (R251). -/
structure RxStep where
  inLen : InLen
  rx : Frame
  out : Option Frame
  code : OutcomeCode
deriving DecidableEq, Repr

/-- "abort and reset to state 0" (R163, R165): the byte is consumed, no frame. `S.rx` keeps what the frame in progress has
stored so far: DESIGN CHOICE (10_state.md R31 leaves its header fields and checksums unspecified after an abort; log 21). -/
def rxAbort (rx : Frame) (code : OutcomeCode) : RxStep := { inLen := 0, rx := rx, out := none, code := code }

/-- Position `i` lies in the field of `bits` bits that starts at position `start` (R81). -/
def inField (start bits i : Nat) : Bool := start ≤ i && i < start + fieldBytes bits

/-- A header field byte at position `i < H − 1` (R164): low byte first. A marker position stores nothing. -/
def storeHeader (c : Config) (rx : Frame) (i : Nat) (d : Byte) : Frame :=
  if c.hasSrc && inField (srcAt c) Config.addrBits i then { rx with src := setLane rx.src (i - srcAt c) d }
  else if inField (dstAt c) Config.addrBits i then { rx with dst := setLane rx.dst (i - dstAt c) d }
  else if c.hasCmd && inField (cmdAt c) Config.cmdBits i then { rx with cmd := setLane rx.cmd (i - cmdAt c) d }
  else if inField (lenAt c) Config.payloadLenBits i then
    { rx with payloadLen := setLane rx.payloadLen (i - lenAt c) d }
  else rx

/-- A byte of the trailing checksum, lane `k` of the `FCRC_BYTES` there are (R167). -/
def storeFcrc (c : Config) (rx : Frame) (k : Nat) (d : Byte) : Frame :=
  { rx with fCrc := setLane rx.fCrc k d &&& c.fcrcBytes.mask }

/-- The frame a completed assembly returns (R168, 30_encoding.md R87): absent fields are 0. -/
def returnedFrame (c : Config) (rx : Frame) : Frame :=
  { rx with src := if c.hasSrc then rx.src else 0, cmd := if c.hasCmd then rx.cmd else 0 }

/-- The end of a byte that was accepted at position `i`: `in_len` advances, and the last byte of the frame returns it
(R168). -/
def rxAdvance (c : Config) (i : InLen) (rx : Frame) : RxStep :=
  if (i + 1).toNat = wireLength c rx.payloadLen then
    { inLen := 0, rx := rx, out := some (returnedFrame c rx), code := .ok }
  else { inLen := i + 1, rx := rx, out := none, code := .ok }

/-- RX.HANDLE_BYTE's pseudocode (R162), from `S.in_len = i` and `S.rx = rx`, with the checks in its order (60_exceptions.md
R258). -/
def rxByte (c : Config) (i : InLen) (rx : Frame) (d : Byte) : RxStep :=
  if c.markers && i.toNat == 0 && d != c.start0 then rxAbort rx .markerMismatch
  else if c.markers && i.toNat == 1 && d != c.start1 then rxAbort rx .markerMismatch
  else if i.toNat < hcrcAt c then rxAdvance c i (storeHeader c rx i.toNat d)
  else if i.toNat = hcrcAt c then
    if crcOf c.hcrc (headerBytes c rx) ≠ d then rxAbort rx .hcrcMismatch
    else rxAdvance c i { rx with hCrc := d }
  else if i.toNat < headerSize c + rx.payloadLen.toNat then
    rxAdvance c i { rx with payload := rx.payload.store (i.toNat - headerSize c) d }
  else rxAdvance c i (storeFcrc c rx (i.toNat - headerSize c - rx.payloadLen.toNat) d)

/-- The effect of RX.HANDLE_BYTE on the machine. -/
def State.handleByte (s : State) (d : Byte) : State :=
  let r := rxByte s.cfg s.inLen s.rx d
  ({ s with inLen := r.inLen, rx := r.rx } : State).reply .consumer (.frameOpt r.out) r.code

/-- RX.RESET (R171): only `in_len` changes. -/
def execRxReset (s : State) : Host.Outcome State Fault Refusal :=
  .next (s.checkPort .rxReset (({ s with inLen := 0 } : State).reply .consumer .done .ok))

/-- RX.HANDLE_BYTE d (R162). -/
def execRxHandleByte (d : Byte) (s : State) : Host.Outcome State Fault Refusal :=
  .next (s.checkPort (.rxHandleByte d) (s.handleByte d))

end Sys2Proof.Machine
end

