-- ==== Sys2Proof/Machine/Tx.lean ====
section
/-! DEFINITION. The serializer (44_datalink_tx.md): TX.SEND's issue step (R223), its attempt steps against the sink (R224,
R226), and its completions (R225, R227). -/

namespace Sys2Proof.Machine

/-- The issue step (R223): the wire bytes of the checksummed frame (R222), the index at the first, the unit busy. No
result yet. -/
def State.sendIssue (s : State) : State :=
  { s with txBytes := wireBytes s.cfg (withChecksums s.cfg s.frameOperand), txIdx := 0, txBusy := true }

/-- TX.SEND (R223). Its attempts and its completion are steps of the consumer side, State.sendStep. -/
def execTxSend (s : State) : Host.Outcome State Fault Refusal :=
  .next (s.checkPort .txSend s.sendIssue)

/-- The sink's answer to the next attempt, and the state that has used it up (R226): the planned one, else a free
value. -/
def State.sinkAnswer (s : State) : SinkAnswer × State :=
  match s.sinkIn with
  | a :: rest => (a, { s with sinkIn := rest })
  | [] => (Config.freeSinkAnswer s.freeIx, { s with freeIx := s.freeIx + 1 })

/-- A send that has ended clears the transmit state (R225, R227). -/
def State.sendClear (s : State) : State := { s with txBusy := false, txBytes := [], txIdx := 0 }

/-- What an answer to the attempt for byte `b` does (R224, R227). -/
def State.sendAnswered (s : State) (b : Byte) (a : SinkAnswer) : State :=
  let t := { s with sinkLog := s.sinkLog ++ [(b, a)] }
  match a with
  | .accept => { t with txIdx := t.txIdx + 1 }
  | .retry => t
  | .error e => t.sendClear.reply .consumer (.transportError e) .transportError

/-- One step of a send in progress: an attempt while bytes are left (R224), the normal completion when none is (R225). -/
def State.sendStep (s : State) : State :=
  match s.txBytes[s.txIdx.toNat]? with
  | some b => s.sinkAnswer.2.sendAnswered b s.sinkAnswer.1
  | none => s.sendClear.reply .consumer .sent .ok

end Sys2Proof.Machine
end

