-- ==== Sys2Proof/Machine/Dispatch.lean ====
section
/-! DEFINITION. One arm per operation, each a direct call of its meaning. -/

namespace Sys2Proof.Machine

def exec (i : Instr) (s : State) : Host.Outcome State Fault Refusal :=
  match i with
  | .crchReset => Sys2Proof.Machine.execCrchReset s
  | .crchUpdate d => Sys2Proof.Machine.execCrchUpdate d s
  | .crchFinalize => Sys2Proof.Machine.execCrchFinalize s
  | .crcfReset => Sys2Proof.Machine.execCrcfReset s
  | .crcfUpdate d => Sys2Proof.Machine.execCrcfUpdate d s
  | .crcfFinalize => Sys2Proof.Machine.execCrcfFinalize s
  | .fifoPush d => Sys2Proof.Machine.execFifoPush d s
  | .fifoPop => Sys2Proof.Machine.execFifoPop s
  | .fifoAvailable => Sys2Proof.Machine.execFifoAvailable s
  | .rxReset => Sys2Proof.Machine.execRxReset s
  | .rxHandleByte d => Sys2Proof.Machine.execRxHandleByte d s
  | .guardCrc => Sys2Proof.Machine.execGuardCrc s
  | .guardAddr => Sys2Proof.Machine.execGuardAddr s
  | .frameUpdateCrc => Sys2Proof.Machine.execFrameUpdateCrc s
  | .txSend => Sys2Proof.Machine.execTxSend s

end Sys2Proof.Machine
end

