-- ==== Sys2Proof/Machine/Ports.lean ====
section
/-! DEFINITION. How requests are taken from the two ports (30_encoding.md R70, R76, R77) and which side of the block steps
next (20_memory.md R56, 44_datalink_tx.md R228, 60_exceptions.md R258). -/

namespace Sys2Proof.Machine

/-- Something waits on the producer port. -/
def State.producerReady (s : State) : Bool := !s.pReqs.isEmpty

/-- The consumer side has a send or a micro-stepped operation in progress, or a request waits on its port. -/
def State.consumerReady (s : State) : Bool := s.txBusy || s.qPhase != .idle || !s.qReqs.isEmpty

/-- The side that steps next, and the state that has used the choice up: the planned one; else the only side with work;
else a free value (R258). `none`: the block waits for a request (70_reset_and_hazards.md R282). -/
def State.nextTurn (s : State) : Option Turn × State :=
  match s.turns with
  | t :: rest => (some t, { s with turns := rest })
  | [] =>
    match s.producerReady, s.consumerReady with
    | false, false => (none, s)
    | true, false => (some .producer, s)
    | false, true => (some .consumer, s)
    | true, true => (some (Config.freeTurn s.freeIx), { s with freeIx := s.freeIx + 1 })

/-- Serves a request taken from port `p`: an illegal word is refused (R77) before the port is looked at (R258); an
operation runs with its bundle. -/
def State.serve (s : State) (p : Port) (r : Request) : Host.Outcome State Fault Refusal :=
  match decode r.word with
  | .illegal _ => .next (s.illegalOp p r.word)
  | .ok i => exec i { s with opPort := p, bundle := r.bundle }

/-- A step of the producer port: its oldest request, whole (20_memory.md R56). -/
def State.producerStep (s : State) : Host.Outcome State Fault Refusal :=
  match s.pReqs with
  | [] => .next s
  | r :: rest => ({ s with pReqs := rest } : State).serve .producer r

/-- Micro-step Q1 of an operation that has micro-steps (20_memory.md R57, R58); none for an operation that is atomic
(R56, 00_scope.md R12). -/
def State.firstMicroStep (s : State) : Instr → Option State
  | .fifoPop => some s.popQ1
  | .fifoAvailable => some s.availableQ1
  | .crchReset | .crchUpdate _ | .crchFinalize | .crcfReset | .crcfUpdate _ | .crcfFinalize | .fifoPush _ | .rxReset
  | .rxHandleByte _ | .guardCrc | .guardAddr | .frameUpdateCrc | .txSend => none

/-- Serves a request of the consumer port, an operation with micro-steps only up to its Q1. -/
def State.serveMicro (s : State) (r : Request) : Host.Outcome State Fault Refusal :=
  match decode r.word with
  | .illegal _ => s.serve .consumer r
  | .ok i =>
    match ({ s with opPort := .consumer, bundle := r.bundle } : State).firstMicroStep i with
    | some t => .next t
    | none => s.serve .consumer r

/-- A step of the consumer side: the send in progress (44_datalink_tx.md R228), else the next micro-step of the operation
in progress, else the oldest request of its port, served by `serve`. -/
def State.consumerStepBy (s : State) (serve : State → Request → Host.Outcome State Fault Refusal) :
    Host.Outcome State Fault Refusal :=
  if s.txBusy then .next s.sendStep
  else if s.qPhase ≠ .idle then .next s.microStep
  else
    match s.qReqs with
    | [] => .next s
    | r :: rest => serve { s with qReqs := rest } r

/-- A step of the consumer side, each operation whole (20_memory.md R61). -/
def State.consumerStep (s : State) : Host.Outcome State Fault Refusal :=
  s.consumerStepBy (fun t r => t.serve .consumer r)

/-- A step of the consumer side in which a FIFO.POP or FIFO.AVAILABLE that begins takes its micro-step Q1 (R57, R58). -/
def State.consumerMicroStep (s : State) : Host.Outcome State Fault Refusal :=
  s.consumerStepBy State.serveMicro

/-- The step the chosen side takes. -/
def State.takeTurn (s : State) : Turn → Host.Outcome State Fault Refusal
  | .producer => s.producerStep
  | .consumer => s.consumerStep
  | .consumerMicro => s.consumerMicroStep

/-- The port a word is put on so that it runs: the one that admits it, and the consumer port for an illegal word. -/
def portOfWord (w : Half) : Port :=
  match decode w with
  | .ok i => i.port
  | .illegal _ => .consumer

/-- `s` with the word first on the port that admits it and that port's side next. A consumer word needs the consumer side
free (R228), so an operation in progress there is dropped (log 19). -/
def State.withWord (s : State) (w : Half) : State :=
  let r : Request := { word := w, bundle := s.bundle }
  match portOfWord w with
  | .producer => { s with pReqs := r :: s.pReqs, turns := .producer :: s.turns }
  | .consumer =>
    let t := if s.txBusy then s.sendClear else s
    { t with qReqs := r :: s.qReqs, turns := .consumer :: s.turns, qPhase := .idle }

end Sys2Proof.Machine
end

