-- ==== Sys2Proof/Machine/Step.lean ====
section
/-! DEFINITION. One step of the machine: the side whose turn it is takes its step; with nothing to do the block holds its
state (60_exceptions.md R265, 70_reset_and_hazards.md R282). -/

namespace Sys2Proof.Machine

/-- One step. -/
def step (s : State) : Host.Outcome State Fault Refusal :=
  match s.nextTurn.1 with
  | none => .next s
  | some t => s.nextTurn.2.takeTurn t

/-- `s` with the operation word placed where the next step takes it: first on the port that admits it, with that port's
turn next. Bits that are no operation word (R70) stand for the illegal word 0x0000. -/
def State.withFetchWord (s : State) (nbits w : Nat) : State :=
  s.withWord ((tableWord nbits w).getD 0)

end Sys2Proof.Machine
end

