-- ==== Sys2Proof/Safety.lean ====
section
/-! DEFINITION. The terms claims are stated in: runs of operations, what the FIFO holds, what the sink took, and the
invariant that every state of a run meets. -/

namespace Sys2Proof.Machine

/-- The block's state: "exactly the elements in this table" (10_state.md R20). -/
structure Block where
  crchReg : Byte
  crcfReg : Word
  ring : Memory
  posIn : Cursor
  posOut : Cursor
  inLen : InLen
  rx : Frame
  txBusy : Bool
  txBytes : List Byte
  txIdx : Half
deriving DecidableEq, Repr

/-- The block's state within the machine's. -/
def State.block (s : State) : Block :=
  { crchReg := s.crchReg, crcfReg := s.crcfReg, ring := s.ring, posIn := s.posIn, posOut := s.posOut, inLen := s.inLen,
    rx := s.rx, txBusy := s.txBusy, txBytes := s.txBytes, txIdx := s.txIdx }

/-- Goes on after a step that gave a next state. -/
def andThen (o : Host.Outcome State Fault Refusal) (k : State → Host.Outcome State Fault Refusal) :
    Host.Outcome State Fault Refusal :=
  match o with
  | .next s => k s
  | .fault r => .fault r
  | .refused r => .refused r

/-- Operations performed one after another, each on the port of the request being served. -/
def runOps : List Instr → State → Host.Outcome State Fault Refusal
  | [], s => .next s
  | i :: rest, s => andThen (exec i s) (runOps rest)

/-- `s` with a request of operation `i` being served on the port that admits it. -/
def State.onItsPort (s : State) (i : Instr) : State := { s with opPort := i.port }

/-- Operations performed one after another, each on the port that admits it: a sequential execution of the two agents. -/
def runAdmitted : List Instr → State → Host.Outcome State Fault Refusal
  | [], s => .next s
  | i :: rest, s => andThen (exec i (s.onItsPort i)) (runAdmitted rest)

/-- The lines of a host program performed one after another, each on the port that admits its operation and with the bundle
the host makes for it (30_encoding.md R79). -/
def runLines : List Line → State → Host.Outcome State Fault Refusal
  | [], s => .next s
  | l :: rest, s => andThen (exec l.op { s with opPort := l.op.port, bundle := s.lineBundle l.operands }) (runLines rest)

/-- The pushes of agent P that fall between two steps of agent Q (20_memory.md R56), in order. -/
def State.pushes (s : State) : List Byte → State
  | [] => s
  | d :: rest => (s.push d).pushes rest

/-- The slot of the `j`-th byte held, `(S.pos_out + j) mod FIFO_SLOTS` (41_fifo.md R130). -/
def State.slotAt (s : State) (j : Nat) : Nat := (s.posOut.toNat + j) % Config.fifoSlots

/-- The number of bytes held (10_state.md R28). -/
def State.held (s : State) : Nat := (fifoCount s.posIn s.posOut).toNat

/-- The bytes held, oldest first (R130). -/
def State.contents (s : State) : List Byte := (List.range s.held).map (fun j => s.ring.load .ring (s.slotAt j))

/-- The bytes of the pushes among `ops` whose result, in order in `results`, is `true`. -/
def pushedBytes : List Instr → List Result → List Byte
  | .fifoPush d :: ops, .pushed true :: results => d :: pushedBytes ops results
  | .fifoPush _ :: ops, _ :: results => pushedBytes ops results
  | _ :: ops, results => pushedBytes ops results
  | [], _ => []

/-- The bytes that pops returned. -/
def poppedBytes : List Result → List Byte
  | [] => []
  | .popped (some b) :: results => b :: poppedBytes results
  | _ :: results => poppedBytes results

/-- The bytes of a log of attempts that the sink took (44_datalink_tx.md R226). -/
def tookBytes : List (Byte × SinkAnswer) → List Byte
  | [] => []
  | (b, .accept) :: rest => b :: tookBytes rest
  | (_, .retry) :: rest => tookBytes rest
  | (_, .error _) :: rest => tookBytes rest

/-- The bytes the sink has taken: the wire. -/
def State.wire (s : State) : List Byte := tookBytes s.sinkLog

/-- `n` steps of a send in progress with nothing between them. -/
def State.sendSteps : Nat → State → State
  | 0, s => s
  | n + 1, s => State.sendSteps n s.sendStep

/-- What the micro-step reached on the consumer side says of the FIFO: a value read from `pos_in` is at most the bytes
held behind, and a pop past Q2 has a byte to read (20_memory.md R57, R61). -/
def State.PhaseOk (s : State) : Prop :=
  match s.qPhase with
  | .idle => True
  | .popRead p => (fifoCount p s.posOut).toNat ≤ s.held
  | .popNonEmpty => 0 < s.held
  | .popHave b => 0 < s.held ∧ b = s.oldestByte
  | .availRead p => (fifoCount p s.posOut).toNat ≤ s.held

/-- The invariant of the machine. -/
structure State.Inv (s : State) : Prop where
  /-- `RING` is in canonical form within its slots (20_memory.md R50) -/
  ring_wf : s.ring.wf Config.fifoSlots
  /-- every held byte stands in a slot a push has written (10_state.md R25) -/
  slots_written : ∀ j < s.held, (s.ring.read? (s.slotAt j)).isSome
  /-- `S.rx` is a frame of the generation, `RXPAY` in canonical form (R30, R31) -/
  rx_wf : s.rx.wf s.cfg
  /-- the position in the frame being received (R29) -/
  rx_position : s.inLen.toNat < hcrcAt s.cfg ∨ s.inLen.toNat < wireLength s.cfg s.rx.payloadLen
  /-- past the header checksum, `h_crc` is the checksum of the header received (42_datalink_rx.md R165, R170) -/
  rx_header : headerSize s.cfg ≤ s.inLen.toNat → s.rx.hCrc = crcOf s.cfg.hcrc (headerBytes s.cfg s.rx)
  /-- `S.crcf_reg` has `FCRC.W` bits (R23) -/
  crcf_width : s.crcfReg &&& s.cfg.fcrcBytes.mask = s.crcfReg
  /-- the transmit elements are cleared when no send is in progress (R33) -/
  tx_clear : s.txBusy = false → s.txBytes = [] ∧ s.txIdx = 0
  /-- a send in progress holds a wire frame and an index in it, and nothing else is in progress (R33) -/
  tx_progress : s.txBusy = true →
    s.qPhase = .idle ∧ s.txBytes ≠ [] ∧ s.txBytes.length ≤ wireLength s.cfg 255 ∧ s.txIdx.toNat ≤ s.txBytes.length
  /-- the micro-step in progress -/
  phase_ok : s.PhaseOk

end Sys2Proof.Machine
end

