-- ==== Sys2Proof/Certificates/Slice0/Obligations.lean ====
section
/-! DEFINITION. The statements for the provers. Each docstring names the rule of spec/ it formalises. A statement about the
result of an operation gives the WHOLE next state, so it is also the operation's frame and its completion. `State.block` is
the block's own state (R20). The ghost outcome code that stands beside every result is the record R250 and R251 allow; no
operation reads it. -/

open Sys2Proof Sys2Proof.Machine

/-! ### Encoding -/

/-- 95_test_vectors.md section 7: words written out from R72's encodings, and the decodes of the refused ones. -/
def Obligations.ListedWordsDecodeAsTheTableSays : Prop :=
  decode 0x1000 = .ok .crchReset ∧ decode 0x11AA = .ok (.crchUpdate 0xAA) ∧ decode 0x1200 = .ok .crchFinalize ∧
  decode 0x2000 = .ok .crcfReset ∧ decode 0x2131 = .ok (.crcfUpdate 0x31) ∧ decode 0x2200 = .ok .crcfFinalize ∧
  decode 0x31FF = .ok (.fifoPush 0xFF) ∧ decode 0x3200 = .ok .fifoPop ∧ decode 0x3300 = .ok .fifoAvailable ∧
  decode 0x4000 = .ok .rxReset ∧ decode 0x4155 = .ok (.rxHandleByte 0x55) ∧
  decode 0x5100 = .ok .guardCrc ∧ decode 0x5200 = .ok .guardAddr ∧ decode 0x5300 = .ok .frameUpdateCrc ∧
  decode 0x6100 = .ok .txSend ∧
  decode 0x1201 = .illegal .nonzeroData ∧ decode 0x1300 = .illegal .reservedOp ∧ decode 0x3000 = .illegal .reservedOp ∧
  decode 0x0000 = .illegal .reservedUnit ∧ decode 0x7000 = .illegal .reservedUnit ∧ decode 0xF1FF = .illegal .reservedUnit

/-- Every operation is read back from its word, and every word that decodes is the word of what it decodes to. -/
def Obligations.DecodeAndEncodeAgree : Prop :=
  (∀ i, decode (encode i) = .ok i) ∧ ∀ w i, decode w = .ok i → encode i = w

/-- R72's selection rule and R73's operand: "A word w selects a row when w AND mask = match", and the byte operand is
`w[7:0]`. -/
def Obligations.WordSelectsItsRowByMaskAndMatch : Prop :=
  ∀ (w : Half) (i : Instr),
    decode w = .ok i ↔ w &&& i.row.mask = i.row.pattern ∧ i.data = w.extractLsb' 0 8

/-- R77: a word that matches no row is refused on either port, changes no state of the block, and its refusal is the only
result. -/
def Obligations.IllegalWordRefusedWithoutEffect : Prop :=
  ∀ (s : State) (r : Request), (∀ i : Instr, r.word &&& i.row.mask ≠ i.row.pattern) →
    s.serve .producer r =
      .next { s with refusalMark := true, pOut := s.pOut ++ [.illegalOp r.word], ghost := s.ghost ++ [.illegalOp] } ∧
    s.serve .consumer r =
      .next { s with refusalMark := true, qOut := s.qOut ++ [.illegalOp r.word], ghost := s.ghost ++ [.illegalOp] }

/-- R76: the producer port admits only FIFO.PUSH, the consumer port every other operation; an operation on the other port
is refused and changes no state of the block. -/
def Obligations.WrongPortRefusedWithoutEffect : Prop :=
  (∀ i : Instr, i.port = .producer ↔ ∃ d, i = .fifoPush d) ∧
  (∀ (i : Instr) (s : State), i.port = .producer → s.opPort = .consumer →
    exec i s = .next { s with
      refusalMark := true, qOut := s.qOut ++ [.portViolation (encode i) .consumer],
      ghost := s.ghost ++ [.portViolation] }) ∧
  (∀ (i : Instr) (s : State), i.port = .consumer → s.opPort = .producer →
    exec i s = .next { s with
      refusalMark := true, pOut := s.pOut ++ [.portViolation (encode i) .producer],
      ghost := s.ghost ++ [.portViolation] })

/-! ### Steps -/

/-- When it is a port's turn and its oldest request's word decodes to `i`, the step is `exec i` on that port with that
request's bundle, the request taken off the port. -/
def Obligations.StepRunsTheDecodedOperation : Prop :=
  ∀ (s : State) (r : Request) (rest : List Request) (i : Instr), decode r.word = .ok i →
    (s.nextTurn.1 = some .producer → s.pReqs = r :: rest →
      step s = exec i { s.nextTurn.2 with pReqs := rest, opPort := .producer, bundle := r.bundle }) ∧
    (s.nextTurn.1 = some .consumer → s.txBusy = false → s.qPhase = .idle → s.qReqs = r :: rest →
      step s = exec i { s.nextTurn.2 with qReqs := rest, opPort := .consumer, bundle := r.bundle })

/-- A word placed by withFetchWord is the very next operation run, on the port that admits it. -/
def Obligations.PlacedWordIsTheNextOperationRun : Prop :=
  ∀ (s : State) (w : Half) (i : Instr), decode w = .ok i → s.txBusy = false → s.qPhase = .idle →
    step (s.withFetchWord 16 w.toNat) = exec i (s.onItsPort i)

/-- Which side steps next (20_memory.md R56, 60_exceptions.md R258, 70_reset_and_hazards.md R282): the planned one; with no
plan the only side with work; with work on both sides an open choice; with no work the block holds its state. -/
def Obligations.NextTurnIsPlannedForcedOrOpen : Prop :=
  (∀ (s : State) (t : Turn) (rest : List Turn), s.turns = t :: rest →
    step s = ({ s with turns := rest } : State).takeTurn t) ∧
  (∀ s : State, s.turns = [] → s.pReqs ≠ [] → s.txBusy = false → s.qPhase = .idle → s.qReqs = [] →
    step s = s.producerStep) ∧
  (∀ s : State, s.turns = [] → s.pReqs = [] → (s.txBusy = true ∨ s.qPhase ≠ .idle ∨ s.qReqs ≠ []) →
    step s = s.consumerStep) ∧
  (∀ s : State, s.turns = [] → s.pReqs ≠ [] → (s.txBusy = true ∨ s.qPhase ≠ .idle ∨ s.qReqs ≠ []) →
    ∃ t : Turn, step s = ({ s with freeIx := s.freeIx + 1 } : State).takeTurn t) ∧
  (∀ s : State, s.turns = [] → s.pReqs = [] → s.txBusy = false → s.qPhase = .idle → s.qReqs = [] → step s = .next s)

/-- The block has no trap (60_exceptions.md R254) and no fault that stops it: every step of every state answers a next
state. That a refused request does so too is the model's choice (log 1): 60_exceptions.md R257 gives it no step. -/
def Obligations.EveryStepAnswersANextState : Prop := ∀ s : State, ∃ t, step s = .next t

/-! ### CRC units -/

/-- R104: RESET loads `REFLECT ? reflect_W(INIT) : INIT`, for each unit and each width of FCRC; for this hardware 0xFF and
0xFFFFFFFF. -/
def Obligations.CrcResetLoadsTheInitialValue : Prop :=
  ∀ s : State, s.opPort = .consumer →
    exec .crchReset s = .next { s with
      crchReg := if s.cfg.hcrc.reflect then s.cfg.hcrc.init.reverse else s.cfg.hcrc.init,
      qOut := s.qOut ++ [.done], ghost := s.ghost ++ [.ok] } ∧
    (s.cfg.fcrcBytes = .four → exec .crcfReset s = .next { s with
      crcfReg := if s.cfg.fcrc32.reflect then s.cfg.fcrc32.init.reverse else s.cfg.fcrc32.init,
      qOut := s.qOut ++ [.done], ghost := s.ghost ++ [.ok] }) ∧
    (s.cfg.fcrcBytes = .one → exec .crcfReset s = .next { s with
      crcfReg := (if s.cfg.fcrc8.reflect then s.cfg.fcrc8.init.reverse else s.cfg.fcrc8.init).setWidth 32,
      qOut := s.qOut ++ [.done], ghost := s.ghost ++ [.ok] }) ∧
    (s.cfg = Config.hw →
      exec .crchReset s = .next { s with crchReg := 0xFF, qOut := s.qOut ++ [.done], ghost := s.ghost ++ [.ok] } ∧
      exec .crcfReset s =
        .next { s with crcfReg := 0xFFFFFFFF, qOut := s.qOut ++ [.done], ghost := s.ghost ++ [.ok] })

/-- R105: a plain update XORs the byte into the top 8 bits, then shifts left eight times, reducing when the top bit was 1;
for each unit and each width of FCRC; with the rule's example. -/
def Obligations.CrcPlainUpdateShiftsLeftEightTimes : Prop :=
  (∀ (s : State) (d : Byte), s.opPort = .consumer →
    (s.cfg.hcrc.reflect = false → exec (.crchUpdate d) s = .next { s with
      crchReg := (fun r : Byte => if r.getLsbD 7 then (r <<< 1) ^^^ s.cfg.hcrc.poly else r <<< 1)^[8] (s.crchReg ^^^ d),
      qOut := s.qOut ++ [.done], ghost := s.ghost ++ [.ok] }) ∧
    (s.cfg.fcrcBytes = .one → s.cfg.fcrc8.reflect = false → exec (.crcfUpdate d) s = .next { s with
      crcfReg := ((fun r : Byte => if r.getLsbD 7 then (r <<< 1) ^^^ s.cfg.fcrc8.poly else r <<< 1)^[8]
        (s.crcfReg.setWidth 8 ^^^ d)).setWidth 32,
      qOut := s.qOut ++ [.done], ghost := s.ghost ++ [.ok] }) ∧
    (s.cfg.fcrcBytes = .four → s.cfg.fcrc32.reflect = false → exec (.crcfUpdate d) s = .next { s with
      crcfReg := (fun r : Word => if r.getLsbD 31 then (r <<< 1) ^^^ s.cfg.fcrc32.poly else r <<< 1)^[8]
        (s.crcfReg ^^^ (d.setWidth 32 <<< 24)),
      qOut := s.qOut ++ [.done], ghost := s.ghost ++ [.ok] })) ∧
  ∀ s : State, s.opPort = .consumer → s.cfg = Config.hw → s.crchReg = 0xFF →
    exec (.crchUpdate 0xAA) s =
      .next { s with crchReg := 0xDB, qOut := s.qOut ++ [.done], ghost := s.ghost ++ [.ok] }

/-- R106: a reflected update XORs the byte into the low 8 bits, then shifts right eight times, reducing by `reflect_W(POLY)`
when the low bit was 1; for each unit and each width of FCRC; with the rule's example. -/
def Obligations.CrcReflectedUpdateShiftsRightEightTimes : Prop :=
  (∀ (s : State) (d : Byte), s.opPort = .consumer →
    (s.cfg.fcrcBytes = .four → s.cfg.fcrc32.reflect = true → exec (.crcfUpdate d) s = .next { s with
      crcfReg := (fun r : Word => if r.getLsbD 0 then (r >>> 1) ^^^ s.cfg.fcrc32.poly.reverse else r >>> 1)^[8]
        (s.crcfReg ^^^ d.setWidth 32),
      qOut := s.qOut ++ [.done], ghost := s.ghost ++ [.ok] }) ∧
    (s.cfg.fcrcBytes = .one → s.cfg.fcrc8.reflect = true → exec (.crcfUpdate d) s = .next { s with
      crcfReg := ((fun r : Byte => if r.getLsbD 0 then (r >>> 1) ^^^ s.cfg.fcrc8.poly.reverse else r >>> 1)^[8]
        (s.crcfReg.setWidth 8 ^^^ d)).setWidth 32,
      qOut := s.qOut ++ [.done], ghost := s.ghost ++ [.ok] }) ∧
    (s.cfg.hcrc.reflect = true → exec (.crchUpdate d) s = .next { s with
      crchReg := (fun r : Byte => if r.getLsbD 0 then (r >>> 1) ^^^ s.cfg.hcrc.poly.reverse else r >>> 1)^[8]
        (s.crchReg ^^^ d),
      qOut := s.qOut ++ [.done], ghost := s.ghost ++ [.ok] })) ∧
  Config.crc32Alg.poly.reverse = 0xEDB88320 ∧
  (∀ s : State, s.opPort = .consumer → s.cfg = Config.hw → s.crcfReg = 0xFFFFFFFF →
    exec (.crcfUpdate 0x31) s =
      .next { s with crcfReg := 0x7C231048, qOut := s.qOut ++ [.done], ghost := s.ghost ++ [.ok] }) ∧
  ∀ (w : Nat) (a : CrcAlg w) (r : BitVec w) (d : Byte), 8 ≤ w →
    crcUpdate { a with reflect := true } r d = (crcUpdate { a with reflect := false } r.reverse d.reverse).reverse

/-- R107, R110: FINALIZE returns the register XOR XOROUT and writes nothing of the block; issued twice it returns the same
value twice. -/
def Obligations.CrcFinalizeReturnsAndKeepsTheRegister : Prop :=
  (∀ s : State, s.opPort = .consumer →
    exec .crchFinalize s = .next { s with
      qOut := s.qOut ++ [.crcH (s.crchReg ^^^ s.cfg.hcrc.xorout)], ghost := s.ghost ++ [.ok] } ∧
    (s.cfg.fcrcBytes = .four → exec .crcfFinalize s = .next { s with
      qOut := s.qOut ++ [.crcF (s.crcfReg ^^^ s.cfg.fcrc32.xorout)], ghost := s.ghost ++ [.ok] }) ∧
    (s.cfg.fcrcBytes = .one → exec .crcfFinalize s = .next { s with
      qOut := s.qOut ++ [.crcF ((s.crcfReg.setWidth 8 ^^^ s.cfg.fcrc8.xorout).setWidth 32)],
      ghost := s.ghost ++ [.ok] })) ∧
  ∀ s : State, s.opPort = .consumer →
    (∃ t v, runOps [.crchFinalize, .crchFinalize] s = .next t ∧ t.block = s.block ∧
      t.qOut = s.qOut ++ [.crcH v, .crcH v]) ∧
    (∃ t v, runOps [.crcfFinalize, .crcfFinalize] s = .next t ∧ t.block = s.block ∧
      t.qOut = s.qOut ++ [.crcF v, .crcF v])

/-- R108: RESET, one UPDATE per byte and FINALIZE return `CRC(alg, bytes)`, the function the parser, the checksum guard and
FRAME.UPDATE_CRC use (R101), whatever the register held; only the unit's register is written. R109: bytes fed in two pieces,
with no RESET between, leave the register that the whole sequence does. -/
def Obligations.CrcUnitComputesTheCrcFunction : Prop :=
  (∀ (s : State) (bytes : List Byte), s.opPort = .consumer →
    (∃ t, runOps (Pseudo.crchCompute bytes).expand s = .next t ∧
      t.qOut = s.qOut ++ List.replicate (bytes.length + 1) .done ++ [.crcH (crcOf s.cfg.hcrc bytes)] ∧
      t.block = { s.block with crchReg := t.crchReg }) ∧
    (∃ t, runOps (Pseudo.crcfCompute bytes).expand s = .next t ∧
      t.qOut = s.qOut ++ List.replicate (bytes.length + 1) .done ++ [.crcF (fcrcOf s.cfg bytes)] ∧
      t.block = { s.block with crcfReg := t.crcfReg })) ∧
  (∀ (s : State) (a b : List Byte), s.opPort = .consumer →
    (∃ t u, runOps (Pseudo.crchUpdateSeq a).expand s = .next t ∧ runOps (Pseudo.crchUpdateSeq b).expand t = .next u ∧
      u.crchReg = (a ++ b).foldl (crcUpdate s.cfg.hcrc) s.crchReg ∧
      runOps (Pseudo.crchUpdateSeq (a ++ b)).expand s = .next u) ∧
    (∃ t u, runOps (Pseudo.crcfUpdateSeq a).expand s = .next t ∧ runOps (Pseudo.crcfUpdateSeq b).expand t = .next u ∧
      u.crcfReg = (a ++ b).foldl (fcrcUpdate s.cfg) s.crcfReg ∧
      runOps (Pseudo.crcfUpdateSeq (a ++ b)).expand s = .next u))

/-- R112: changing exactly one bit of the bytes changes the checksum, for each algorithm of this hardware. -/
def Obligations.SingleBitErrorChangesTheChecksum : Prop :=
  ∀ (before after : List Byte) (d : Byte) (k : Nat), k < 8 →
    crcOf Config.hcrcAlg (before ++ [d ^^^ (1#8 <<< k)] ++ after) ≠ crcOf Config.hcrcAlg (before ++ [d] ++ after) ∧
    crcOf Config.crc32Alg (before ++ [d ^^^ (1#8 <<< k)] ++ after) ≠ crcOf Config.crc32Alg (before ++ [d] ++ after)

/-- R102, R103, R111: the algorithms' parameters and their values over "123456789" and over nothing. -/
def Obligations.ChecksumAlgorithmsHaveTheirCheckValues : Prop :=
  Config.hw.hcrc = { poly := 0x2F, init := 0xFF, xorout := 0xFF, reflect := false } ∧
  Config.hw.fcrc32 = { poly := 0x04C11DB7, init := 0xFFFFFFFF, xorout := 0xFFFFFFFF, reflect := true } ∧
  Config.hw.fcrc8 = Config.hw.hcrc ∧ Config.hw.fcrcBytes = .four ∧
  crcOf Config.hw.hcrc [0x31, 0x32, 0x33, 0x34, 0x35, 0x36, 0x37, 0x38, 0x39] = 0xDF ∧
  fcrcOf Config.hw [0x31, 0x32, 0x33, 0x34, 0x35, 0x36, 0x37, 0x38, 0x39] = 0xCBF43926 ∧
  crcOf Config.hw.hcrc [] = 0x00 ∧ fcrcOf Config.hw [] = 0x00000000

/-- R113: with the 8-bit `f_crc` and `FCRC = HCRC`, a header followed by its correct checksum leaves the residue 0x42, so the
full-frame checksum is HCRC continued from 0x42 over the payload alone; 0x37 for every frame with payload [0x00, 0x7F]. -/
def Obligations.OneByteFullChecksumIgnoresTheHeader : Prop :=
  (∀ bytes : List Byte,
    crcFold Config.hcrcAlg (crcInit Config.hcrcAlg) (bytes ++ [crcOf Config.hcrcAlg bytes]) = 0x42) ∧
  (∀ (c : Config) (f : Frame), c.fcrcBytes = .one → c.fcrc8 = Config.hcrcAlg → c.hcrc = Config.hcrcAlg →
    (withChecksums c f).fCrc = (crcFinal Config.hcrcAlg (crcFold Config.hcrcAlg 0x42 (usedPayload f))).setWidth 32 ∧
    (usedPayload f = [0x00, 0x7F] → (withChecksums c f).fCrc = 0x37))

/-! ### FIFO -/

/-- R131: PUSH on a full FIFO drops the byte and writes nothing; otherwise the slot at `pos_in` is written and the cursor
advances modulo 256. On the consumer port it is refused and changes no state of the block; that the refusal is the result
in a next state is the model's choice (log 1). -/
def Obligations.PushStoresOrDropsTheByte : Prop :=
  (∀ (s : State) (d : Byte), s.opPort = .producer →
    (s.posIn + 1 = s.posOut → exec (.fifoPush d) s =
      .next { s with pOut := s.pOut ++ [.pushed false], ghost := s.ghost ++ [.fifoFull] }) ∧
    (s.posIn + 1 ≠ s.posOut → exec (.fifoPush d) s = .next { s with
      ring := s.ring.store s.posIn.toNat d, posIn := s.posIn + 1,
      pOut := s.pOut ++ [.pushed true], ghost := s.ghost ++ [.ok] })) ∧
  ∀ (s : State) (d : Byte), s.opPort = .consumer →
    ∃ t, exec (.fifoPush d) s = .next t ∧ t.block = s.block ∧
      t.qOut = s.qOut ++ [.portViolation (0x3100 ||| d.setWidth 16) .consumer]

/-- R132: POP on an empty FIFO returns none and writes nothing; otherwise it returns the byte of the slot at `pos_out` and
the cursor advances modulo 256. Its micro-steps Q1 to Q4, each as the rule's pseudocode has it. -/
def Obligations.PopReturnsTheOldestByteOrNone : Prop :=
  (∀ s : State, s.opPort = .consumer →
    (s.posIn = s.posOut → exec .fifoPop s =
      .next { s with qOut := s.qOut ++ [.popped none], ghost := s.ghost ++ [.fifoEmpty] }) ∧
    (s.posIn ≠ s.posOut → exec .fifoPop s = .next { s with
      posOut := s.posOut + 1, qOut := s.qOut ++ [.popped (some (s.ring.load .ring s.posOut.toNat))],
      ghost := s.ghost ++ [.ok] })) ∧
  (∀ s : State, s.popQ1 = { s with qPhase := .popRead s.posIn }) ∧
  (∀ (s : State) (p : Byte), s.qPhase = .popRead p →
    (p = s.posOut → s.microStep =
      { s with qPhase := .idle, qOut := s.qOut ++ [.popped none], ghost := s.ghost ++ [.fifoEmpty] }) ∧
    (p ≠ s.posOut → s.microStep = { s with qPhase := .popNonEmpty })) ∧
  (∀ s : State, s.qPhase = .popNonEmpty →
    s.microStep = { s with qPhase := .popHave (s.ring.load .ring s.posOut.toNat) }) ∧
  ∀ (s : State) (b : Byte), s.qPhase = .popHave b →
    s.microStep = { s with
      qPhase := .idle, posOut := s.posOut + 1, qOut := s.qOut ++ [.popped (some b)], ghost := s.ghost ++ [.ok] }

/-- R133: AVAILABLE returns `(pos_in − pos_out) mod 256` and writes nothing; taken in its micro-step, the count is that of the
`pos_in` read at Q1. -/
def Obligations.AvailableReturnsTheCount : Prop :=
  (∀ s : State, s.opPort = .consumer →
    ∃ n : Byte, n.toNat = (s.posIn.toNat + 256 - s.posOut.toNat) % 256 ∧
      exec .fifoAvailable s = .next { s with qOut := s.qOut ++ [.count n], ghost := s.ghost ++ [.ok] }) ∧
  (∀ s : State, s.availableQ1 = { s with qPhase := .availRead s.posIn }) ∧
  ∀ (s : State) (p : Byte), s.qPhase = .availRead p →
    ∃ n : Byte, n.toNat = (p.toNat + 256 - s.posOut.toNat) % 256 ∧
      s.microStep = { s with qPhase := .idle, qOut := s.qOut ++ [.count n], ghost := s.ghost ++ [.ok] }

/-- R135: PUSH returns false exactly when 255 bytes are held, and true otherwise. -/
def Obligations.PushFailsExactlyWhen255BytesAreHeld : Prop :=
  ∀ (s : State) (d : Byte), s.opPort = .producer →
    ∃ t, exec (.fifoPush d) s = .next t ∧
      (s.contents.length = 255 → t.pOut = s.pOut ++ [.pushed false]) ∧
      (s.contents.length ≠ 255 → t.pOut = s.pOut ++ [.pushed true])

/-- R130: the bytes held are `RING[(pos_out + j) mod 256]`, oldest first; a successful PUSH puts its byte behind them and a
successful POP takes the first. -/
def Obligations.FifoIsAQueueOfTheBytesHeld : Prop :=
  (∀ s : State, (s.contents = [] ↔ s.posIn = s.posOut) ∧ s.contents.length = s.held ∧ s.held ≤ 255) ∧
  (∀ (s t : State) (d : Byte), s.opPort = .producer → s.contents.length < 255 → exec (.fifoPush d) s = .next t →
    t.contents = s.contents ++ [d]) ∧
  (∀ (s t : State) (b : Byte) (rest : List Byte), s.opPort = .consumer → s.contents = b :: rest →
    exec .fifoPop s = .next t → t.contents = rest ∧ t.qOut = s.qOut ++ [.popped (some b)])

/-- R134: in any sequence of pushes by P and pops (and counts) by Q, the bytes held at the start and then the bytes of the
pushes that returned true are, in order, the bytes the pops returned and then the bytes held at the end. -/
def Obligations.FifoReturnsThePushedBytesInOrder : Prop :=
  ∀ (ops : List Instr) (s t : State),
    (∀ i ∈ ops, i = .fifoPop ∨ i = .fifoAvailable ∨ ∃ d, i = .fifoPush d) → runAdmitted ops s = .next t →
    s.contents ++ pushedBytes ops (t.pOut.drop s.pOut.length) =
      poppedBytes (t.qOut.drop s.qOut.length) ++ t.contents

/-- 20_memory.md R57, R58, R61: a POP taken in its micro-steps, with any pushes `a`, `b`, `c` between them, ends in the state
of a whole POP at its linearization point: after all the pushes where it returns a byte (Q4), and before them where it
returns none (Q1; only the order of the ghost record differs). An AVAILABLE gives the count at Q1. -/
def Obligations.MicroSteppedFifoOperationsAreWholeAtOneInstant : Prop :=
  ∀ (s : State) (a b c : List Byte), s.qPhase = .idle →
    (s.posIn ≠ s.posOut →
      ((((s.popQ1.pushes a).microStep.pushes b).microStep).pushes c).microStep = (((s.pushes a).pushes b).pushes c).pop) ∧
    (s.posIn = s.posOut →
      { (s.popQ1.pushes a).microStep with ghost := [] } = { s.pop.pushes a with ghost := [] }) ∧
    { (s.availableQ1.pushes a).microStep with ghost := [] } = { (s.available s.posIn).pushes a with ghost := [] }

/-- How a step begins micro-stepped operations: on a micro-stepped turn a POP or AVAILABLE takes only Q1 and every other
operation runs whole; the next consumer step goes on with the micro-step reached. The kinds of turn, and that the request is
taken off the port with Q1, are the model's (log 5, log 16). -/
def Obligations.MicroTurnTakesQ1AndGoesOn : Prop :=
  (∀ (s : State) (ts : List Turn) (r : Request) (rest : List Request) (i : Instr),
    s.turns = .consumerMicro :: ts → s.txBusy = false → s.qPhase = .idle → s.qReqs = r :: rest →
    decode r.word = .ok i →
    (i = .fifoPop → step s = .next { s with
      turns := ts, qReqs := rest, opPort := .consumer, bundle := r.bundle, qPhase := .popRead s.posIn }) ∧
    (i = .fifoAvailable → step s = .next { s with
      turns := ts, qReqs := rest, opPort := .consumer, bundle := r.bundle, qPhase := .availRead s.posIn }) ∧
    (i ≠ .fifoPop → i ≠ .fifoAvailable →
      step s = exec i { s with turns := ts, qReqs := rest, opPort := .consumer, bundle := r.bundle })) ∧
  (∀ (s : State) (t : Turn) (ts : List Turn), s.turns = t :: ts → t ≠ .producer → s.txBusy = false →
    s.qPhase ≠ .idle → step s = .next ({ s with turns := ts } : State).microStep)

/-! ### Receive parser -/

/-- R8, R81: the field offsets and sizes of every generation, and the wire byte of a frame at each of them; for this
hardware `HDR_FIELDS` = 9, `H` = 10 and `N(len)` = 14 + `len`. -/
def Obligations.WireOffsetsFollowTheGeneration : Prop :=
  (∀ c : Config,
    srcAt c = 2 * c.markers.toNat ∧ dstAt c = srcAt c + 2 * c.hasSrc.toNat ∧ cmdAt c = dstAt c + 2 ∧
    lenAt c = cmdAt c + 2 * c.hasCmd.toNat ∧ hcrcAt c = lenAt c + 1 ∧ headerSize c = hcrcAt c + 1 ∧
    hcrcAt c = 2 * c.markers.toNat + 2 * c.hasSrc.toNat + 2 + 2 * c.hasCmd.toNat + 1) ∧
  (∀ (c : Config) (f : Frame),
    (headerBytes c f).length = hcrcAt c ∧ (coveredBytes c f).length = headerSize c + f.payloadLen.toNat ∧
    (wireBytes c f).length = headerSize c + f.payloadLen.toNat + c.fcrcBytes.toNat) ∧
  (∀ (c : Config) (f : Frame),
    let w := wireBytes c f
    (c.markers = true → w[0]? = some c.start0 ∧ w[1]? = some c.start1) ∧
    (c.hasSrc = true →
      w[srcAt c]? = some (f.src.extractLsb' 0 8) ∧ w[srcAt c + 1]? = some (f.src.extractLsb' 8 8)) ∧
    w[dstAt c]? = some (f.dst.extractLsb' 0 8) ∧ w[dstAt c + 1]? = some (f.dst.extractLsb' 8 8) ∧
    (c.hasCmd = true →
      w[cmdAt c]? = some (f.cmd.extractLsb' 0 8) ∧ w[cmdAt c + 1]? = some (f.cmd.extractLsb' 8 8)) ∧
    w[lenAt c]? = some f.payloadLen ∧ w[hcrcAt c]? = some f.hCrc ∧
    (∀ j < f.payloadLen.toNat, w[headerSize c + j]? = some (f.payload.load .rxpay j)) ∧
    ∀ k < c.fcrcBytes.toNat, w[headerSize c + f.payloadLen.toNat + k]? = some (f.fCrc.extractLsb' (8 * k) 8)) ∧
  hcrcAt Config.hw = 9 ∧ headerSize Config.hw = 10 ∧ ∀ len : Byte, wireLength Config.hw len = 14 + len.toNat

/-- R163: a byte other than START0 at position 0, or other than START1 at position 1, is consumed and returns the parser to
position 0; the markers themselves advance it. `AA AA 55` does not synchronise. That `rx` is unchanged by an abort is the
model's choice (log 21). -/
def Obligations.MarkerMismatchReturnsToPositionZero : Prop :=
  (∀ (s : State) (d : Byte), s.opPort = .consumer → s.cfg.markers = true →
    ((s.inLen = 0 ∧ d ≠ s.cfg.start0) ∨ (s.inLen = 1 ∧ d ≠ s.cfg.start1) → exec (.rxHandleByte d) s = .next { s with
      inLen := 0, qOut := s.qOut ++ [.frameOpt none], ghost := s.ghost ++ [.markerMismatch] }) ∧
    ((s.inLen = 0 ∧ d = s.cfg.start0) ∨ (s.inLen = 1 ∧ d = s.cfg.start1) → exec (.rxHandleByte d) s = .next { s with
      inLen := s.inLen + 1, qOut := s.qOut ++ [.frameOpt none], ghost := s.ghost ++ [.ok] })) ∧
  ∀ s : State, s.opPort = .consumer → s.cfg = Config.hw → s.inLen = 0 →
    runOps (Pseudo.rxFeed [0xAA, 0xAA, 0x55]).expand s = .next { s with
      qOut := s.qOut ++ [.frameOpt none, .frameOpt none, .frameOpt none],
      ghost := s.ghost ++ [.ok, .markerMismatch, .markerMismatch] }

/-- R164: a byte at a SRC, DST, CMD or LEN position is stored into its field, low byte first, whatever its value; no frame
is returned. -/
def Obligations.HeaderByteIsStoredIntoItsField : Prop :=
  ∀ (s : State) (d : Byte), s.opPort = .consumer → s.inLen.toNat < hcrcAt s.cfg → srcAt s.cfg ≤ s.inLen.toNat →
    ∃ rx : Frame, exec (.rxHandleByte d) s = .next { s with
        inLen := s.inLen + 1, rx := rx, qOut := s.qOut ++ [.frameOpt none], ghost := s.ghost ++ [.ok] } ∧
      (s.cfg.hasSrc = true → s.inLen.toNat = srcAt s.cfg →
        rx = { s.rx with src := (s.rx.src &&& 0xFF00) ||| d.setWidth 16 }) ∧
      (s.cfg.hasSrc = true → s.inLen.toNat = srcAt s.cfg + 1 →
        rx = { s.rx with src := (s.rx.src &&& 0x00FF) ||| (d.setWidth 16 <<< 8) }) ∧
      (s.inLen.toNat = dstAt s.cfg → rx = { s.rx with dst := (s.rx.dst &&& 0xFF00) ||| d.setWidth 16 }) ∧
      (s.inLen.toNat = dstAt s.cfg + 1 → rx = { s.rx with dst := (s.rx.dst &&& 0x00FF) ||| (d.setWidth 16 <<< 8) }) ∧
      (s.cfg.hasCmd = true → s.inLen.toNat = cmdAt s.cfg →
        rx = { s.rx with cmd := (s.rx.cmd &&& 0xFF00) ||| d.setWidth 16 }) ∧
      (s.cfg.hasCmd = true → s.inLen.toNat = cmdAt s.cfg + 1 →
        rx = { s.rx with cmd := (s.rx.cmd &&& 0x00FF) ||| (d.setWidth 16 <<< 8) }) ∧
      (s.inLen.toNat = lenAt s.cfg → rx = { s.rx with payloadLen := d })

/-- R165: at position `H − 1` a byte that differs from `CRC(HCRC, HeaderBytes(S.rx))` aborts the frame; an equal one is
stored and assembly goes on. No CRC unit register is used. That `rx` is unchanged by an abort is the model's choice
(log 21). -/
def Obligations.HeaderChecksumIsCheckedAtItsPosition : Prop :=
  ∀ (s : State) (d : Byte), s.opPort = .consumer → s.inLen.toNat = hcrcAt s.cfg →
    (crcOf s.cfg.hcrc (headerBytes s.cfg s.rx) ≠ d → exec (.rxHandleByte d) s = .next { s with
      inLen := 0, qOut := s.qOut ++ [.frameOpt none], ghost := s.ghost ++ [.hcrcMismatch] }) ∧
    (crcOf s.cfg.hcrc (headerBytes s.cfg s.rx) = d → exec (.rxHandleByte d) s = .next { s with
      inLen := s.inLen + 1, rx := { s.rx with hCrc := d },
      qOut := s.qOut ++ [.frameOpt none], ghost := s.ghost ++ [.ok] })

/-- R166: the byte at position `i` of the payload is written to `RXPAY[i − H]`; every other byte of `RXPAY` is as before, and
no frame is returned. -/
def Obligations.PayloadByteIsStoredAtItsOffset : Prop :=
  ∀ (s : State) (d : Byte), s.opPort = .consumer → headerSize s.cfg ≤ s.inLen.toNat →
    s.inLen.toNat < headerSize s.cfg + s.rx.payloadLen.toNat →
    ∃ m : Memory, exec (.rxHandleByte d) s = .next { s with
        inLen := s.inLen + 1, rx := { s.rx with payload := m },
        qOut := s.qOut ++ [.frameOpt none], ghost := s.ghost ++ [.ok] } ∧
      m.load .rxpay (s.inLen.toNat - headerSize s.cfg) = d ∧
      ∀ j, j ≠ s.inLen.toNat - headerSize s.cfg → m.load .rxpay j = s.rx.payload.load .rxpay j

/-- R167: the byte at position `H + len + k` is written into byte lane `k` of `f_crc`, and every other lane and field is as
before; after all `FCRC_BYTES` of them the returned frame's `f_crc` is exactly the received bytes, least significant first,
whatever it held before. -/
def Obligations.ChecksumByteIsStoredIntoItsLane : Prop :=
  (∀ (s : State) (d : Byte) (k : Nat), s.opPort = .consumer → k < s.cfg.fcrcBytes.toNat →
    s.inLen.toNat = headerSize s.cfg + s.rx.payloadLen.toNat + k →
    ∃ t, exec (.rxHandleByte d) s = .next t ∧ t.rx = { s.rx with fCrc := t.rx.fCrc } ∧
      t.rx.fCrc.extractLsb' (8 * k) 8 = d ∧
      ∀ j < s.cfg.fcrcBytes.toNat, j ≠ k → t.rx.fCrc.extractLsb' (8 * j) 8 = s.rx.fCrc.extractLsb' (8 * j) 8) ∧
  ∀ (s : State) (b0 b1 b2 b3 : Byte), s.opPort = .consumer →
    s.inLen.toNat = headerSize s.cfg + s.rx.payloadLen.toNat →
    (s.cfg.fcrcBytes = .four → ∃ (t : State) (f : Frame), runOps (Pseudo.rxFeed [b0, b1, b2, b3]).expand s = .next t ∧
      t.qOut = s.qOut ++ [.frameOpt none, .frameOpt none, .frameOpt none, .frameOpt (some f)] ∧
      f.fCrc = b0.setWidth 32 ||| (b1.setWidth 32 <<< 8) ||| (b2.setWidth 32 <<< 16) ||| (b3.setWidth 32 <<< 24)) ∧
    (s.cfg.fcrcBytes = .one → ∃ (t : State) (f : Frame), runOps (Pseudo.rxFeed [b0]).expand s = .next t ∧
      t.qOut = s.qOut ++ [.frameOpt (some f)] ∧ f.fCrc = b0.setWidth 32)

/-- R168: the final checksum byte returns the assembled frame, with absent fields 0, and puts the parser at position 0. -/
def Obligations.LastByteReturnsTheFrame : Prop :=
  ∀ (s : State) (d : Byte), s.opPort = .consumer → headerSize s.cfg ≤ s.inLen.toNat →
    s.inLen.toNat + 1 = wireLength s.cfg s.rx.payloadLen →
    ∃ rx : Frame, exec (.rxHandleByte d) s = .next { s with
        inLen := 0, rx := rx,
        qOut := s.qOut ++ [.frameOpt (some { rx with
          src := if s.cfg.hasSrc then rx.src else 0, cmd := if s.cfg.hasCmd then rx.cmd else 0 })],
        ghost := s.ghost ++ [.ok] } ∧
      rx = { s.rx with fCrc := rx.fCrc } ∧
      rx.fCrc.extractLsb' (8 * (s.cfg.fcrcBytes.toNat - 1)) 8 = d

/-- R169: in every state of a run HANDLE_BYTE completes with exactly one result, and it is a frame exactly on the last byte
of a frame. -/
def Obligations.HandleByteCompletesAndReturnsAFrameOnlyAtTheEnd : Prop :=
  ∀ (s : State) (d : Byte), s.Inv → s.opPort = .consumer →
    ∃ t o, exec (.rxHandleByte d) s = .next t ∧ t.qOut = s.qOut ++ [.frameOpt o] ∧
      (o.isSome ↔ s.inLen.toNat + 1 = wireLength s.cfg s.rx.payloadLen ∧ headerSize s.cfg ≤ s.inLen.toNat)

/-- R170: a returned frame's `h_crc` is the checksum of its header, its `f_crc` is the received one, its payload buffer is
`RXPAY`, and its absent fields are 0. -/
def Obligations.ReturnedFrameIsTheReceivedOne : Prop :=
  ∀ (s t : State) (d : Byte) (f : Frame), s.Inv → s.opPort = .consumer → exec (.rxHandleByte d) s = .next t →
    t.qOut = s.qOut ++ [.frameOpt (some f)] →
    f.hCrc = crcOf s.cfg.hcrc (headerBytes s.cfg f) ∧ f.fCrc = t.rx.fCrc ∧ f.payload = s.rx.payload ∧
    f.payloadLen = s.rx.payloadLen ∧ f.dst = s.rx.dst ∧ (s.cfg.hasSrc = true → f.src = s.rx.src) ∧
    (s.cfg.hasCmd = true → f.cmd = s.rx.cmd) ∧ (s.cfg.hasSrc = false → f.src = 0) ∧ (s.cfg.hasCmd = false → f.cmd = 0)

/-- R164, 10_state.md R31, R36: whatever the header fields and checksums of `rx` held before a frame began, no result of any
bytes fed from the idle state depends on it. (So the values log 3 names at reset, and those log 21 names after an abort,
reach no result.) -/
def Obligations.OldHeaderFieldsNeverReachAResult : Prop :=
  ∀ (s : State) (f : Frame) (bytes : List Byte), s.opPort = .consumer → s.inLen = 0 →
    ∃ t u, runOps (Pseudo.rxFeed bytes).expand s = .next t ∧
      runOps (Pseudo.rxFeed bytes).expand { s with rx := { f with payload := s.rx.payload } } = .next u ∧
      t.qOut = u.qOut ∧ t.inLen = u.inLen ∧ t.rx.payload = u.rx.payload

/-- R171: RX.RESET clears `in_len` and nothing else; on the idle state it changes nothing of the block. -/
def Obligations.RxResetClearsOnlyThePosition : Prop :=
  ∀ s : State, s.opPort = .consumer →
    exec .rxReset s = .next { s with inLen := 0, qOut := s.qOut ++ [.done], ghost := s.ghost ++ [.ok] } ∧
    (s.inLen = 0 → ∃ t, exec .rxReset s = .next t ∧ t.block = s.block)

/-- R176: in every generation, the wire bytes of a checksummed frame, fed one at a time from the idle state, return none for
each byte but the last and on the last the frame; the parser is idle again and nothing else of the block changed. -/
def Obligations.SerializedFrameIsParsedBack : Prop :=
  ∀ (s : State) (f : Frame), s.opPort = .consumer → s.inLen = 0 →
    ∃ t g, runOps (Pseudo.rxFeed (wireBytes s.cfg (withChecksums s.cfg f))).expand s = .next t ∧
      t.qOut = s.qOut ++ List.replicate (wireLength s.cfg f.payloadLen - 1) (.frameOpt none) ++ [.frameOpt (some g)] ∧
      g.dst = f.dst ∧ g.payloadLen = f.payloadLen ∧ usedPayload g = usedPayload f ∧
      (s.cfg.hasSrc = true → g.src = f.src) ∧ (s.cfg.hasCmd = true → g.cmd = f.cmd) ∧
      g.hCrc = (withChecksums s.cfg f).hCrc ∧ g.fCrc = (withChecksums s.cfg f).fCrc ∧
      t.inLen = 0 ∧ t.block = { s.block with rx := t.rx }

/-! ### Guards and checksum update -/

/-- R200, R201: GUARD.CRC passes none as none, passes a frame unchanged when the recomputed full-frame checksum equals its
`f_crc` (on `8·FCRC_BYTES` bits), and discards it silently otherwise; nothing of the block changes. With the rule's
example. -/
def Obligations.ChecksumGuardPassesMatchingFrames : Prop :=
  (∀ s : State, s.opPort = .consumer →
    (s.bundle.frameOpt = none →
      exec .guardCrc s = .next { s with qOut := s.qOut ++ [.frameOpt none], ghost := s.ghost ++ [.ok] }) ∧
    ∀ f, s.bundle.frameOpt = some f →
      (fcrcOf s.cfg (coveredBytes s.cfg f) = f.fCrc &&& s.cfg.fcrcBytes.mask →
        exec .guardCrc s = .next { s with qOut := s.qOut ++ [.frameOpt (some f)], ghost := s.ghost ++ [.ok] }) ∧
      (fcrcOf s.cfg (coveredBytes s.cfg f) ≠ f.fCrc &&& s.cfg.fcrcBytes.mask →
        exec .guardCrc s =
          .next { s with qOut := s.qOut ++ [.frameOpt none], ghost := s.ghost ++ [.fcrcMismatch] })) ∧
  ∀ m : Memory,
    let f : Frame := { src := 0x0001, dst := 0x0010, cmd := 0x0100, payloadLen := 0, payload := m, hCrc := 0x9E, fCrc := 0xBC3C2026 }
    guardCrc Config.hw (some f) = some f ∧ guardCrc Config.hw (some { f with fCrc := 0xBC3C2027 }) = none

/-- R200, R202, R206: GUARD.ADDR passes none as none, passes a frame unchanged exactly when its `dst` equals the address
operand, and discards it silently otherwise; nothing of the block changes. -/
def Obligations.AddressGuardPassesExactlyItsAddress : Prop :=
  ∀ s : State, s.opPort = .consumer →
    (s.bundle.frameOpt = none →
      exec .guardAddr s = .next { s with qOut := s.qOut ++ [.frameOpt none], ghost := s.ghost ++ [.ok] }) ∧
    ∀ f, s.bundle.frameOpt = some f →
      (f.dst = s.bundle.addr →
        exec .guardAddr s = .next { s with qOut := s.qOut ++ [.frameOpt (some f)], ghost := s.ghost ++ [.ok] }) ∧
      (f.dst ≠ s.bundle.addr →
        exec .guardAddr s = .next { s with qOut := s.qOut ++ [.frameOpt none], ghost := s.ghost ++ [.addrMismatch] })

/-- R203: the two guards commute, both ways pass exactly a frame with a correct `f_crc` and the address, and give it
unchanged. -/
def Obligations.GuardsCommute : Prop :=
  ∀ (c : Config) (x : Option Frame) (a : Addr),
    guardAddr a (guardCrc c x) = guardCrc c (guardAddr a x) ∧
    (∀ f, x = some f → fcrcMatches c f = true → f.dst = a → guardAddr a (guardCrc c x) = x) ∧
    ((∀ f, x = some f → ¬ (fcrcMatches c f = true ∧ f.dst = a)) → guardAddr a (guardCrc c x) = none)

/-- R221: FRAME.UPDATE_CRC returns the frame with `h_crc` over the header bytes and `f_crc` over the covered bytes with the
new `h_crc`, every other field unchanged; it writes nothing of the block and is idempotent; the checksum guard passes its
result. -/
def Obligations.UpdateCrcStoresBothChecksums : Prop :=
  (∀ s : State, s.opPort = .consumer → ∃ g : Frame,
    exec .frameUpdateCrc s = .next { s with qOut := s.qOut ++ [.frame g], ghost := s.ghost ++ [.ok] } ∧
    g = { s.bundle.frame with hCrc := g.hCrc, fCrc := g.fCrc } ∧
    g.hCrc = crcOf s.cfg.hcrc (headerBytes s.cfg s.bundle.frame) ∧
    g.fCrc = fcrcOf s.cfg (headerBytes s.cfg s.bundle.frame ++ [g.hCrc] ++ usedPayload s.bundle.frame)) ∧
  (∀ (c : Config) (f : Frame), withChecksums c (withChecksums c f) = withChecksums c f) ∧
  ∀ (c : Config) (f : Frame), guardCrc c (some (withChecksums c f)) = some (withChecksums c f)

/-- R205, for this hardware: with one bit of a checksummed frame's wire bytes flipped at position `j`, a flip in the markers,
header or `h_crc` makes the parser abort by position `H − 1`, with no frame from the bytes up to there; a flip in the
payload or `f_crc` gives one frame, at the last byte, and GUARD.CRC discards it. -/
def Obligations.SingleBitErrorNeverPassesThePipeline : Prop :=
  ∀ (s : State) (f : Frame) (j k : Nat), s.opPort = .consumer → s.inLen = 0 → s.cfg = Config.hw → k < 8 →
    j < wireLength Config.hw f.payloadLen →
    let w := wireBytes Config.hw (withChecksums Config.hw f)
    let w' := w.modify j (· ^^^ (1#8 <<< k))
    (j < 2 → ∃ t, runOps (Pseudo.rxFeed (w'.take (j + 1))).expand s = .next t ∧ t.inLen = 0 ∧
      t.qOut = s.qOut ++ List.replicate (j + 1) (.frameOpt none)) ∧
    (2 ≤ j → j < 10 → ∃ t, runOps (Pseudo.rxFeed (w'.take 10)).expand s = .next t ∧ t.inLen = 0 ∧
      t.qOut = s.qOut ++ List.replicate 10 (.frameOpt none)) ∧
    (10 ≤ j → ∃ t g, runOps (Pseudo.rxFeed w').expand s = .next t ∧ t.inLen = 0 ∧
      t.qOut = s.qOut ++ List.replicate (w'.length - 1) (.frameOpt none) ++ [.frameOpt (some g)] ∧
      guardCrc Config.hw (some g) = none)

/-! ### Serializer -/

/-- R222, R223: the issue step of TX.SEND holds the wire bytes of the checksummed frame, in the wire's field order, at index
0, and makes the unit busy; it writes nothing else and returns nothing yet. There are `N(payload_len)` bytes, 14 to 269 on
this hardware. -/
def Obligations.SendIssueHoldsTheWireBytes : Prop :=
  (∀ s : State, s.opPort = .consumer →
    ∃ g : Frame, g = withChecksums s.cfg s.bundle.frame ∧
      exec .txSend s = .next { s with
        txBusy := true, txIdx := 0,
        txBytes := (if s.cfg.markers then [s.cfg.start0, s.cfg.start1] else []) ++
          (if s.cfg.hasSrc then [g.src.extractLsb' 0 8, g.src.extractLsb' 8 8] else []) ++
          [g.dst.extractLsb' 0 8, g.dst.extractLsb' 8 8] ++
          (if s.cfg.hasCmd then [g.cmd.extractLsb' 0 8, g.cmd.extractLsb' 8 8] else []) ++
          [g.payloadLen, g.hCrc] ++ (List.range g.payloadLen.toNat).map (g.payload.load .rxpay) ++
          (List.range s.cfg.fcrcBytes.toNat).map (fun k => g.fCrc.extractLsb' (8 * k) 8) }) ∧
  ∀ s t : State, s.opPort = .consumer → exec .txSend s = .next t →
    t.txBytes.length = wireLength s.cfg s.bundle.frame.payloadLen ∧
    (s.cfg = Config.hw → 14 ≤ t.txBytes.length ∧ t.txBytes.length ≤ 269)

/-- R224, R226, R227: the three answers of the sink to the attempt for the byte at the index: ACCEPT advances the index, RETRY
changes nothing, ERROR(e) ends the send with a transport error and cleared transmit state. The plan the answer is taken
from, and the free answer once the plan is empty, are the model's choice (log 4); that the send is still in progress after
the ACCEPT of its last byte is log 13. -/
def Obligations.SendAttemptFollowsTheSinksAnswer : Prop :=
  ∀ (s : State) (b : Byte) (rest : List SinkAnswer), s.txBytes[s.txIdx.toNat]? = some b →
    (s.sinkIn = .accept :: rest → s.sendStep =
      { s with sinkIn := rest, sinkLog := s.sinkLog ++ [(b, .accept)], txIdx := s.txIdx + 1 }) ∧
    (s.sinkIn = .retry :: rest → s.sendStep =
      { s with sinkIn := rest, sinkLog := s.sinkLog ++ [(b, .retry)] }) ∧
    (∀ e, s.sinkIn = .error e :: rest → s.sendStep = { s with
      sinkIn := rest, sinkLog := s.sinkLog ++ [(b, .error e)], txBusy := false, txBytes := [], txIdx := 0,
      qOut := s.qOut ++ [.transportError e], ghost := s.ghost ++ [.transportError] }) ∧
    (s.sinkIn = [] → ∃ a, s.sendStep =
      ({ s with sinkIn := [a], freeIx := s.freeIx + 1 } : State).sendStep)

/-- R225: when every byte has been accepted the send ends with OK and cleared transmit state. That this is a step of its own
is the model's reading (log 13). -/
def Obligations.SendCompletesWhenAllBytesAreAccepted : Prop :=
  ∀ s : State, s.txIdx.toNat = s.txBytes.length →
    s.sendStep = { s with
      txBusy := false, txBytes := [], txIdx := 0, qOut := s.qOut ++ [.sent], ghost := s.ghost ++ [.ok] }

/-- R224, R225, R227: through any step of a send in progress the bytes the sink has taken for it are exactly the first
`tx_idx` of its bytes, in order; it ends with OK only when all have been taken (by a completion step of its own: log 13). -/
def Obligations.SinkTakesThePrefixSentSoFar : Prop :=
  ∀ (s t : State) (before : List Byte), s.Inv → s.txBusy = true → t = s.sendStep →
    s.wire = before ++ s.txBytes.take s.txIdx.toNat →
    (t.txBusy = true ∧ t.txBytes = s.txBytes ∧ t.wire = before ++ t.txBytes.take t.txIdx.toNat ∧ t.qOut = s.qOut) ∨
    (t.txBusy = false ∧ t.qOut = s.qOut ++ [.sent] ∧ t.wire = before ++ s.txBytes) ∨
    (t.txBusy = false ∧ (∃ e, t.qOut = s.qOut ++ [.transportError e]) ∧
      t.wire = before ++ s.txBytes.take s.txIdx.toNat)

/-- R223 to R225: against a sink that accepts every byte, an issued send takes one attempt per byte and one completion step
(a step of its own by log 13, the answers planned by log 4), puts exactly the frame's wire bytes on the wire, and returns
OK. -/
def Obligations.SendToAnAcceptingSinkPutsTheFrameOnTheWire : Prop :=
  ∀ (s t : State) (rest : List SinkAnswer), s.opPort = .consumer → exec .txSend s = .next t →
    s.sinkIn = List.replicate (wireLength s.cfg s.bundle.frame.payloadLen) .accept ++ rest →
    ∃ u, u = State.sendSteps (wireLength s.cfg s.bundle.frame.payloadLen + 1) t ∧
      u.wire = s.wire ++ wireBytes s.cfg (withChecksums s.cfg s.bundle.frame) ∧ u.qOut = s.qOut ++ [.sent] ∧
      u.txBusy = false ∧ u.txBytes = [] ∧ u.txIdx = 0 ∧ u.sinkIn = rest

/-- R229: a sink that answers RETRY any number of times leaves the send where it is: the consumer side hangs. -/
def Obligations.RetryingSinkKeepsTheSendWaiting : Prop :=
  ∀ (n : Nat) (s : State) (rest : List SinkAnswer), s.Inv → s.txBusy = true → s.txIdx.toNat < s.txBytes.length →
    s.sinkIn = List.replicate n .retry ++ rest →
    ∃ u, u = State.sendSteps n s ∧ u.block = s.block ∧ u.wire = s.wire ∧ u.qOut = s.qOut ∧ u.sinkIn = rest

/-- R228: while a send is in progress the consumer port is held, so no step takes a request from it, and a producer turn
serves the producer port as ever without touching the send. Nothing a FIFO.PUSH writes is read by the send. -/
def Obligations.SendHoldsTheConsumerPortOnly : Prop :=
  (∀ s t : State, s.txBusy = true → step s = .next t → t.qReqs = s.qReqs) ∧
  (∀ s : State, s.txBusy = true → (s.nextTurn.1 = some .consumer ∨ s.nextTurn.1 = some .consumerMicro) →
    step s = .next s.nextTurn.2.sendStep) ∧
  (∀ s t : State, s.txBusy = true → s.nextTurn.1 = some .producer → step s = .next t →
    t.txBusy = true ∧ t.txBytes = s.txBytes ∧ t.txIdx = s.txIdx ∧ t.pReqs = s.pReqs.tail) ∧
  ∀ (s : State) (m : Memory) (p : Byte),
    ({ s with ring := m, posIn := p } : State).sendStep = { s.sendStep with ring := m, posIn := p }

/-! ### Reset, ownership and invariants -/

/-- R281, with the configuration of 00_scope.md R7: the values after block reset that the spec gives. That an unwritten byte
of `RING` or `RXPAY` reads as the model's free value is log 2: R281 leaves these bytes unspecified. (The header fields of
`rx` are unspecified there too and are not stated here.) -/
def Obligations.BlockResetLeavesTheSpecsValues : Prop :=
  State.reset.crchReg = 0xFF ∧ State.reset.crcfReg = 0xFFFFFFFF ∧ State.reset.posIn = 0 ∧ State.reset.posOut = 0 ∧
  State.reset.inLen = 0 ∧ State.reset.txBusy = false ∧ State.reset.txBytes = [] ∧ State.reset.txIdx = 0 ∧
  (∀ i, State.reset.ring.load .ring i = Config.freshByte .ring i) ∧
  (∀ i, State.reset.rx.payload.load .rxpay i = Config.freshByte .rxpay i) ∧
  (∀ c : Config, c.fcrcBytes = .one → c.fcrc8 = Config.hcrcAlg → (State.resetWith c).crcfReg = 0xFF)

/-- The invariant holds after block reset, in every generation. -/
def Obligations.InvariantHoldsAtReset : Prop := State.reset.Inv ∧ ∀ c : Config, (State.resetWith c).Inv

/-- Every step keeps the invariant: RING and RXPAY stay canonical, every held byte stands in a written slot (R25), the
parser's position stays within the frame (R29), a checked header stays checked (R170), the transmit elements are clear when
idle and within the frame when busy (R33), and the micro-step in progress agrees with the FIFO (R57). -/
def Obligations.EveryStepKeepsTheInvariant : Prop :=
  ∀ s t : State, s.Inv → step s = .next t → t.Inv

/-- 10_state.md R24, 00_scope.md R7: nothing writes the configuration. -/
def Obligations.NoStepChangesTheConfiguration : Prop := ∀ s t : State, step s = .next t → t.cfg = s.cfg

/-- 10_state.md R20 (owners), 20_memory.md R55: a step of agent P writes nothing of the block but `RING` and `pos_in`, and
only the slot at `pos_in`; a step of agent Q writes neither. Each cursor advances by at most one (41_fifo.md R130). -/
def Obligations.EachAgentWritesOnlyItsOwnElements : Prop :=
  (∀ s t : State, s.nextTurn.1 = some .producer → step s = .next t →
    t.block = { s.block with ring := t.ring, posIn := t.posIn } ∧ t.qOut = s.qOut ∧ t.qReqs = s.qReqs ∧
    (∀ a, a ≠ s.posIn.toNat → t.ring.load .ring a = s.ring.load .ring a) ∧
    (t.posIn = s.posIn ∧ t.ring = s.ring ∨ t.posIn = s.posIn + 1)) ∧
  (∀ s t : State, s.nextTurn.1 ≠ some .producer → step s = .next t →
    t.ring = s.ring ∧ t.posIn = s.posIn ∧ t.pOut = s.pOut ∧ t.pReqs = s.pReqs ∧
    (t.posOut = s.posOut ∨ t.posOut = s.posOut + 1))

/-- 60_exceptions.md R251: no step reads the ghost record. -/
def Obligations.GhostRecordIsNeverRead : Prop :=
  ∀ (s t : State) (g : List OutcomeCode), step s = .next t →
    ∃ g' : List OutcomeCode, step { s with ghost := g } = .next { t with ghost := g' }

/-! ### Frames -/

/-- What the CRC operations leave unchanged, admitted or refused (a refusal's next state is log 1): everything of the block
but the unit's own register, which only RESET and UPDATE write; every byte of both spaces. -/
def Obligations.CrcOperationsFrame : Prop :=
  ∀ (s t : State) (d : Byte),
    ((exec .crchReset s = .next t ∨ exec (.crchUpdate d) s = .next t) →
      t.block = { s.block with crchReg := t.crchReg } ∧ t.cfg = s.cfg ∧
      ∀ a, t.ring.load .ring a = s.ring.load .ring a ∧ t.rx.payload.load .rxpay a = s.rx.payload.load .rxpay a) ∧
    ((exec .crcfReset s = .next t ∨ exec (.crcfUpdate d) s = .next t) →
      t.block = { s.block with crcfReg := t.crcfReg } ∧ t.cfg = s.cfg ∧
      ∀ a, t.ring.load .ring a = s.ring.load .ring a ∧ t.rx.payload.load .rxpay a = s.rx.payload.load .rxpay a)

/-- What the FIFO operations leave unchanged: PUSH writes the slot at `pos_in` and `pos_in` only, POP `pos_out` only. A
refused operation changes none of it (log 1). -/
def Obligations.FifoOperationsFrame : Prop :=
  ∀ (s t : State) (d : Byte),
    (exec (.fifoPush d) s = .next t →
      t.block = { s.block with ring := t.ring, posIn := t.posIn } ∧ t.cfg = s.cfg ∧
      (∀ a, a ≠ s.posIn.toNat → t.ring.load .ring a = s.ring.load .ring a) ∧
      ∀ a, t.rx.payload.load .rxpay a = s.rx.payload.load .rxpay a) ∧
    (exec .fifoPop s = .next t →
      t.block = { s.block with posOut := t.posOut } ∧ t.cfg = s.cfg ∧
      ∀ a, t.ring.load .ring a = s.ring.load .ring a ∧ t.rx.payload.load .rxpay a = s.rx.payload.load .rxpay a)

/-- What the receive operations leave unchanged: HANDLE_BYTE writes `in_len` and `rx` only, and of `RXPAY` only the byte at
`in_len − H` when that is a payload position; RESET writes `in_len` only. A refused
operation changes none of it (log 1). -/
def Obligations.ReceiveOperationsFrame : Prop :=
  ∀ (s t : State) (d : Byte),
    (exec (.rxHandleByte d) s = .next t →
      t.block = { s.block with inLen := t.inLen, rx := t.rx } ∧ t.cfg = s.cfg ∧
      (∀ a, t.ring.load .ring a = s.ring.load .ring a) ∧
      (∀ a, a ≠ s.inLen.toNat - headerSize s.cfg → t.rx.payload.load .rxpay a = s.rx.payload.load .rxpay a) ∧
      (s.inLen.toNat < headerSize s.cfg ∨ headerSize s.cfg + s.rx.payloadLen.toNat ≤ s.inLen.toNat →
        t.rx.payload = s.rx.payload)) ∧
    (exec .rxReset s = .next t →
      t.block = { s.block with inLen := t.inLen } ∧ t.cfg = s.cfg ∧
      ∀ a, t.ring.load .ring a = s.ring.load .ring a ∧ t.rx.payload.load .rxpay a = s.rx.payload.load .rxpay a)

/-- 20_memory.md R53: FINALIZE, AVAILABLE, the guards and UPDATE_CRC change nothing of the block, admitted or refused (a
refusal's next state is log 1), and issued twice in a row give the same result twice. -/
def Obligations.ReadingOperationsChangeNothingAndRepeat : Prop :=
  ∀ (s t u : State) (i : Instr),
    (i = .crchFinalize ∨ i = .crcfFinalize ∨ i = .fifoAvailable ∨ i = .guardCrc ∨ i = .guardAddr ∨ i = .frameUpdateCrc) →
    exec i s = .next t → exec i t = .next u →
    t.block = s.block ∧ u.block = s.block ∧ t.cfg = s.cfg ∧
    (∃ r, t.qOut = s.qOut ++ [r] ∧ u.qOut = t.qOut ++ [r] ∨ t.pOut = s.pOut ++ [r] ∧ u.pOut = t.pOut ++ [r])

/-- What TX.SEND's issue step leaves unchanged, admitted or refused (a refusal's next state is log 1): everything of the
block but the transmit elements. -/
def Obligations.SendIssueFrame : Prop :=
  ∀ s t : State, exec .txSend s = .next t →
    t.block = { s.block with txBusy := t.txBusy, txBytes := t.txBytes, txIdx := t.txIdx } ∧ t.cfg = s.cfg ∧
    ∀ a, t.ring.load .ring a = s.ring.load .ring a ∧ t.rx.payload.load .rxpay a = s.rx.payload.load .rxpay a
end

