-- ==== Sys2Proof/Laws/Crc.lean ====
section
/-! SUPPORT. The laws of the CRC function (40_crc.md R108 to R110) and of the full-frame algorithm a configuration selects. -/

namespace Sys2Proof.Machine

@[simp] theorem crcFold_nil {w : Nat} (a : CrcAlg w) (r : BitVec w) : crcFold a r [] = r := rfl

@[simp] theorem crcFold_cons {w : Nat} (a : CrcAlg w) (r : BitVec w) (d : Byte) (bytes : List Byte) :
    crcFold a r (d :: bytes) = crcFold a (crcUpdate a r d) bytes := rfl

/-- Folding in two sequences one after the other folds in both (R109). -/
theorem crcFold_append {w : Nat} (a : CrcAlg w) (r : BitVec w) (xs ys : List Byte) :
    crcFold a r (xs ++ ys) = crcFold a (crcFold a r xs) ys := by
  simp [crcFold, List.foldl_append]

/-- The shift steps as an iterate of one. -/
theorem crcShifts_eq_iterate {w : Nat} (a : CrcAlg w) (n : Nat) (r : BitVec w) :
    crcShifts a n r = (crcShift a)^[n] r := by
  induction n generalizing r with
  | zero => rfl
  | succ n ih => rw [crcShifts, ih, Function.iterate_succ_apply]

/-- FINALIZE is its own inverse up to the register: XOROUT applied twice is nothing. -/
@[simp] theorem crcFinal_crcFinal {w : Nat} (a : CrcAlg w) (r : BitVec w) : crcFinal a (crcFinal a r) = r := by
  simp [crcFinal]

/-- A value of 8 bits held in 32 keeps its bits. -/
@[simp] theorem byte_in_word (v : Byte) : (v.setWidth 32).setWidth 8 = v := by
  simp

/-- A value of the generation's width, held in 32 bits, has no other bits. -/
theorem word_of_byte_masked (v : Byte) : (v.setWidth 32) &&& FcrcBytes.one.mask = v.setWidth 32 := by
  apply BitVec.eq_of_toNat_eq
  have h : FcrcBytes.one.mask.toNat = 2 ^ 8 - 1 := by decide
  rw [BitVec.toNat_and, h, Nat.and_two_pow_sub_one_eq_mod, BitVec.toNat_setWidth]
  have := v.isLt
  omega

theorem word_masked (v : Word) : v &&& FcrcBytes.four.mask = v := by
  have h : FcrcBytes.four.mask = BitVec.allOnes 32 := by decide
  rw [h, BitVec.and_allOnes]

/-- The full-frame checksum has `8·FCRC_BYTES` bits. -/
theorem fcrcOf_masked (c : Config) (bytes : List Byte) : fcrcOf c bytes &&& c.fcrcBytes.mask = fcrcOf c bytes := by
  unfold fcrcOf
  split <;> rename_i h <;> rw [h]
  · exact word_of_byte_masked _
  · exact word_masked _

theorem fcrcInit_masked (c : Config) : fcrcInit c &&& c.fcrcBytes.mask = fcrcInit c := by
  unfold fcrcInit
  split <;> rename_i h <;> rw [h]
  · exact word_of_byte_masked _
  · exact word_masked _

theorem fcrcUpdate_masked (c : Config) (r : Word) (d : Byte) :
    fcrcUpdate c r d &&& c.fcrcBytes.mask = fcrcUpdate c r d := by
  unfold fcrcUpdate
  split <;> rename_i h <;> rw [h]
  · exact word_of_byte_masked _
  · exact word_masked _

/-- The full-frame unit computes the full-frame function: RESET, updates, FINALIZE (R108). -/
theorem fcrcFinal_foldl (c : Config) (bytes : List Byte) :
    fcrcFinal c (bytes.foldl (fcrcUpdate c) (fcrcInit c)) = fcrcOf c bytes := by
  unfold fcrcOf
  split <;> rename_i h
  · have : ∀ (r : Byte), (bytes.foldl (fcrcUpdate c) (r.setWidth 32)) = (crcFold c.fcrc8 r bytes).setWidth 32 := by
      induction bytes with
      | nil => intro r; rfl
      | cons d bytes ih =>
        intro r
        have hd : fcrcUpdate c (r.setWidth 32) d = (crcUpdate c.fcrc8 r d).setWidth 32 := by
          simp [fcrcUpdate, h]
        rw [List.foldl_cons, hd, ih, crcFold_cons]
    simp [fcrcInit, fcrcFinal, h, this, crcOf]
  · have hu : fcrcUpdate c = crcUpdate c.fcrc32 := by funext r d; simp [fcrcUpdate, h]
    simp [fcrcInit, fcrcFinal, h, hu, crcOf, crcFold]

end Sys2Proof.Machine
end

