-- ==== Sys2Proof/Laws/Memory.lean ====
section
/-! SUPPORT. The laws of the two byte spaces: a load after a store, and the canonical form. -/

namespace Sys2Proof

@[simp] theorem Memory.read?_nil (a : Nat) : Memory.read? [] a = none := rfl

theorem Memory.read?_cons (c : Host.Cell) (m : Memory) (a : Nat) :
    Memory.read? (c :: m) a = if c.1 = a then some c.2 else Memory.read? m a := rfl

/-- A byte just stored is read back. -/
@[simp] theorem Memory.read?_store_same (m : Memory) (a : Nat) (b : Byte) : (m.store a b).read? a = some b := by
  induction m with
  | nil => simp [Memory.store, Memory.read?_cons]
  | cons c m ih =>
    unfold Memory.store
    split
    · simp [Memory.read?_cons]
    · split
      · simp [Memory.read?_cons]
      · rename_i h
        rw [Memory.read?_cons, if_neg (fun h' => h h'.symm)]
        exact ih

/-- A store leaves every other byte alone. -/
theorem Memory.read?_store_other (m : Memory) {a x : Nat} (b : Byte) (h : x ≠ a) :
    (m.store a b).read? x = m.read? x := by
  induction m with
  | nil => simp [Memory.store, Memory.read?_cons, Ne.symm h]
  | cons c m ih =>
    unfold Memory.store
    split
    · rw [Memory.read?_cons, if_neg (Ne.symm h)]
    · split
      · rename_i h'
        rw [Memory.read?_cons, Memory.read?_cons, ← h', if_neg (Ne.symm h), if_neg (Ne.symm h)]
      · rw [Memory.read?_cons, Memory.read?_cons, ih]

@[simp] theorem Memory.load_store_same (sp : Space) (m : Memory) (a : Nat) (b : Byte) : (m.store a b).load sp a = b := by
  simp [Memory.load]

theorem Memory.load_store_other (sp : Space) (m : Memory) {a x : Nat} (b : Byte) (h : x ≠ a) :
    (m.store a b).load sp x = m.load sp x := by
  simp [Memory.load, Memory.read?_store_other m b h]

/-- The cells of a memory after a store are the cell stored and cells of the memory before. -/
theorem Memory.mem_store {m : Memory} {a : Nat} {b : Byte} {c : Host.Cell} (h : c ∈ m.store a b) :
    c = (a, b) ∨ c ∈ m := by
  induction m with
  | nil => simpa [Memory.store] using h
  | cons x m ih =>
    unfold Memory.store at h
    split at h
    · simpa using h
    · split at h
      · rcases List.mem_cons.1 h with h | h
        · exact .inl h
        · exact .inr (List.mem_cons_of_mem _ h)
      · rcases List.mem_cons.1 h with h | h
        · exact .inr (h ▸ List.mem_cons_self)
        · exact (ih h).imp id (List.mem_cons_of_mem _)

@[simp] theorem Memory.nil_wf (size : Nat) : Memory.wf [] size := ⟨List.Pairwise.nil, by simp⟩

/-- Every store within the space keeps the canonical form. -/
theorem Memory.store_wf {m : Memory} {size a : Nat} (b : Byte) (h : m.wf size) (ha : a < size) :
    (m.store a b).wf size := by
  refine ⟨?_, fun c hc => ?_⟩
  · obtain ⟨hp, -⟩ := h
    induction m with
    | nil => simp [Memory.store]
    | cons c m ih =>
      obtain ⟨hc, hm⟩ := List.pairwise_cons.1 hp
      unfold Memory.store
      split
      · rename_i hlt
        refine List.pairwise_cons.2 ⟨fun y hy => ?_, hp⟩
        rcases List.mem_cons.1 hy with rfl | hy
        · exact hlt
        · exact hlt.trans (hc y hy)
      · split
        · rename_i heq
          exact List.pairwise_cons.2 ⟨fun y hy => heq ▸ hc y hy, hm⟩
        · rename_i hge hne
          refine List.pairwise_cons.2 ⟨fun y hy => ?_, ih hm⟩
          rcases Memory.mem_store hy with rfl | hy
          · simp only
            omega
          · exact hc y hy
  · rcases Memory.mem_store hc with rfl | hc
    · exact ha
    · exact h.2 c hc

end Sys2Proof
end

