-- ==== Sys2Proof/Laws/Fifo.lean ====
section
/-! SUPPORT. The FIFO's functions of its two cursors as plain arithmetic (10_state.md R28), and its capacity. -/

namespace Sys2Proof.Machine

/-- A cursor wraps "via unsigned overflow arithmetic" (R26): modulo the slots is modulo the cursor's width. -/
@[simp] theorem nextCursor_eq (p : Cursor) : nextCursor p = p + 1 := by
  apply BitVec.eq_of_toNat_eq
  simp [nextCursor, BitVec.toNat_add]

/-- The count is the unsigned difference of the cursors. -/
@[simp] theorem fifoCount_eq (p q : Cursor) : fifoCount p q = p - q := by
  apply BitVec.eq_of_toNat_eq
  have hp := p.isLt
  have hq := q.isLt
  simp only [fifoCount, BitVec.toNat_ofNat, BitVec.toNat_sub, Config.fifoSlots, Config.fifoCursorBits] at *
  omega

/-- A cursor is a slot's index. -/
theorem cursor_lt (p : Cursor) : p.toNat < 256 := p.isLt

/-- The index of the next slot. -/
theorem nextCursor_toNat (p : Cursor) : (p + 1).toNat = (p.toNat + 1) % 256 := BitVec.toNat_add p 1

/-- The unsigned difference of two cursors. -/
theorem cursor_sub_toNat (p q : Cursor) : (p - q).toNat = (p.toNat + 256 - q.toNat) % 256 := by
  have h : (p - q).toNat = (256 - q.toNat + p.toNat) % 256 := BitVec.toNat_sub p q
  have := cursor_lt q
  omega

/-- The bytes held, from the cursors' indexes. -/
theorem held_eq (s : State) : s.held = (s.posIn.toNat + 256 - s.posOut.toNat) % 256 := by
  rw [State.held, fifoCount_eq, cursor_sub_toNat]

/-- The FIFO holds at most its usable slots. -/
theorem held_le (s : State) : s.held ≤ Config.fifoUsable := by
  rw [held_eq, Config.fifoUsable, Config.fifoSlots]
  omega

/-- It is full exactly when it holds its usable slots. -/
theorem fifoFull_iff_held (s : State) : fifoFull s.posIn s.posOut = true ↔ s.held = Config.fifoUsable := by
  have hp := cursor_lt s.posIn
  have hq := cursor_lt s.posOut
  rw [held_eq, fifoFull, nextCursor_eq, beq_iff_eq, ← BitVec.toNat_inj, nextCursor_toNat, Config.fifoUsable, Config.fifoSlots]
  omega

/-- It is empty exactly when it holds nothing. -/
theorem fifoEmpty_iff_held (s : State) : fifoEmpty s.posIn s.posOut = true ↔ s.held = 0 := by
  have hp := cursor_lt s.posIn
  have hq := cursor_lt s.posOut
  rw [held_eq, fifoEmpty, beq_iff_eq, ← BitVec.toNat_inj]
  omega

/-- A push into a FIFO that is not full adds a byte. -/
theorem held_push {s : State} (m : Memory) (h : s.held ≠ Config.fifoUsable) :
    State.held { s with ring := m, posIn := s.posIn + 1 } = s.held + 1 := by
  have hq := cursor_lt s.posOut
  rw [held_eq, held_eq] at *
  simp only [nextCursor_toNat, Config.fifoUsable, Config.fifoSlots] at *
  omega

/-- A pop from a FIFO that holds a byte takes one. -/
theorem held_pop {s : State} (h : 0 < s.held) : State.held { s with posOut := s.posOut + 1 } + 1 = s.held := by
  have hq := cursor_lt s.posOut
  rw [held_eq, held_eq] at *
  simp only [nextCursor_toNat] at *
  omega

/-- The slot behind the held bytes is the one the next push writes. -/
theorem slotAt_held (s : State) : s.slotAt s.held = s.posIn.toNat := by
  have hp := cursor_lt s.posIn
  have hq := cursor_lt s.posOut
  rw [State.slotAt, held_eq, Config.fifoSlots]
  omega

/-- No held byte stands in the slot the next push writes. -/
theorem slotAt_ne_posIn {s : State} {j : Nat} (h : j < s.held) : s.slotAt j ≠ s.posIn.toNat := by
  have hp := cursor_lt s.posIn
  have hq := cursor_lt s.posOut
  rw [held_eq] at h
  rw [State.slotAt, Config.fifoSlots]
  omega

/-- After a pop the held bytes are the ones behind the first. -/
theorem slotAt_pop (s : State) (j : Nat) : State.slotAt { s with posOut := s.posOut + 1 } j = s.slotAt (j + 1) := by
  simp only [State.slotAt, nextCursor_toNat, Config.fifoSlots]
  omega

end Sys2Proof.Machine
end

