-- ==== Sys2Proof/Laws/State.lean ====
section
/-! SUPPORT. What each named update of the state does to each field: true by rfl, for simp, so that no proof unfolds an
update. -/

namespace Sys2Proof.Machine

/-- A result on the producer port. -/
@[simp] theorem reply_producer_fields (s : State) (r : Result) (c : OutcomeCode) :
    (s.reply .producer r c).cfg = s.cfg ∧ (s.reply .producer r c).crchReg = s.crchReg ∧
    (s.reply .producer r c).crcfReg = s.crcfReg ∧ (s.reply .producer r c).ring = s.ring ∧
    (s.reply .producer r c).posIn = s.posIn ∧ (s.reply .producer r c).posOut = s.posOut ∧
    (s.reply .producer r c).inLen = s.inLen ∧ (s.reply .producer r c).rx = s.rx ∧
    (s.reply .producer r c).txBusy = s.txBusy ∧ (s.reply .producer r c).txBytes = s.txBytes ∧
    (s.reply .producer r c).txIdx = s.txIdx ∧ (s.reply .producer r c).pReqs = s.pReqs ∧
    (s.reply .producer r c).qReqs = s.qReqs ∧ (s.reply .producer r c).opPort = s.opPort ∧
    (s.reply .producer r c).bundle = s.bundle ∧ (s.reply .producer r c).qPhase = s.qPhase ∧
    (s.reply .producer r c).pOut = s.pOut ++ [r] ∧ (s.reply .producer r c).qOut = s.qOut ∧
    (s.reply .producer r c).turns = s.turns ∧ (s.reply .producer r c).sinkIn = s.sinkIn ∧
    (s.reply .producer r c).freeIx = s.freeIx ∧ (s.reply .producer r c).sinkLog = s.sinkLog ∧
    (s.reply .producer r c).refusalMark = s.refusalMark ∧ (s.reply .producer r c).ghost = s.ghost ++ [c] := by and_intros <;> rfl

/-- A result on the consumer port. -/
@[simp] theorem reply_consumer_fields (s : State) (r : Result) (c : OutcomeCode) :
    (s.reply .consumer r c).cfg = s.cfg ∧ (s.reply .consumer r c).crchReg = s.crchReg ∧
    (s.reply .consumer r c).crcfReg = s.crcfReg ∧ (s.reply .consumer r c).ring = s.ring ∧
    (s.reply .consumer r c).posIn = s.posIn ∧ (s.reply .consumer r c).posOut = s.posOut ∧
    (s.reply .consumer r c).inLen = s.inLen ∧ (s.reply .consumer r c).rx = s.rx ∧
    (s.reply .consumer r c).txBusy = s.txBusy ∧ (s.reply .consumer r c).txBytes = s.txBytes ∧
    (s.reply .consumer r c).txIdx = s.txIdx ∧ (s.reply .consumer r c).pReqs = s.pReqs ∧
    (s.reply .consumer r c).qReqs = s.qReqs ∧ (s.reply .consumer r c).opPort = s.opPort ∧
    (s.reply .consumer r c).bundle = s.bundle ∧ (s.reply .consumer r c).qPhase = s.qPhase ∧
    (s.reply .consumer r c).pOut = s.pOut ∧ (s.reply .consumer r c).qOut = s.qOut ++ [r] ∧
    (s.reply .consumer r c).turns = s.turns ∧ (s.reply .consumer r c).sinkIn = s.sinkIn ∧
    (s.reply .consumer r c).freeIx = s.freeIx ∧ (s.reply .consumer r c).sinkLog = s.sinkLog ∧
    (s.reply .consumer r c).refusalMark = s.refusalMark ∧ (s.reply .consumer r c).ghost = s.ghost ++ [c] := by and_intros <;> rfl

/-- The transmit elements cleared. -/
@[simp] theorem sendClear_fields (s : State) :
    s.sendClear.cfg = s.cfg ∧ s.sendClear.crchReg = s.crchReg ∧
    s.sendClear.crcfReg = s.crcfReg ∧ s.sendClear.ring = s.ring ∧
    s.sendClear.posIn = s.posIn ∧ s.sendClear.posOut = s.posOut ∧
    s.sendClear.inLen = s.inLen ∧ s.sendClear.rx = s.rx ∧
    s.sendClear.txBusy = false ∧ s.sendClear.txBytes = [] ∧
    s.sendClear.txIdx = 0 ∧ s.sendClear.pReqs = s.pReqs ∧
    s.sendClear.qReqs = s.qReqs ∧ s.sendClear.opPort = s.opPort ∧
    s.sendClear.bundle = s.bundle ∧ s.sendClear.qPhase = s.qPhase ∧
    s.sendClear.pOut = s.pOut ∧ s.sendClear.qOut = s.qOut ∧
    s.sendClear.turns = s.turns ∧ s.sendClear.sinkIn = s.sinkIn ∧
    s.sendClear.freeIx = s.freeIx ∧ s.sendClear.sinkLog = s.sinkLog ∧
    s.sendClear.refusalMark = s.refusalMark ∧ s.sendClear.ghost = s.ghost := by and_intros <;> rfl

/-- The issue step of a send. -/
@[simp] theorem sendIssue_fields (s : State) :
    s.sendIssue.cfg = s.cfg ∧ s.sendIssue.crchReg = s.crchReg ∧
    s.sendIssue.crcfReg = s.crcfReg ∧ s.sendIssue.ring = s.ring ∧
    s.sendIssue.posIn = s.posIn ∧ s.sendIssue.posOut = s.posOut ∧
    s.sendIssue.inLen = s.inLen ∧ s.sendIssue.rx = s.rx ∧
    s.sendIssue.txBusy = true ∧ s.sendIssue.txBytes = wireBytes s.cfg (withChecksums s.cfg s.bundle.frame) ∧
    s.sendIssue.txIdx = 0 ∧ s.sendIssue.pReqs = s.pReqs ∧
    s.sendIssue.qReqs = s.qReqs ∧ s.sendIssue.opPort = s.opPort ∧
    s.sendIssue.bundle = s.bundle ∧ s.sendIssue.qPhase = s.qPhase ∧
    s.sendIssue.pOut = s.pOut ∧ s.sendIssue.qOut = s.qOut ∧
    s.sendIssue.turns = s.turns ∧ s.sendIssue.sinkIn = s.sinkIn ∧
    s.sendIssue.freeIx = s.freeIx ∧ s.sendIssue.sinkLog = s.sinkLog ∧
    s.sendIssue.refusalMark = s.refusalMark ∧ s.sendIssue.ghost = s.ghost := by and_intros <;> rfl

/-- The end of a POP that returns a byte. -/
@[simp] theorem popEnd_fields (s : State) (b : Byte) :
    (s.popEnd b).cfg = s.cfg ∧ (s.popEnd b).crchReg = s.crchReg ∧
    (s.popEnd b).crcfReg = s.crcfReg ∧ (s.popEnd b).ring = s.ring ∧
    (s.popEnd b).posIn = s.posIn ∧ (s.popEnd b).posOut = nextCursor s.posOut ∧
    (s.popEnd b).inLen = s.inLen ∧ (s.popEnd b).rx = s.rx ∧
    (s.popEnd b).txBusy = s.txBusy ∧ (s.popEnd b).txBytes = s.txBytes ∧
    (s.popEnd b).txIdx = s.txIdx ∧ (s.popEnd b).pReqs = s.pReqs ∧
    (s.popEnd b).qReqs = s.qReqs ∧ (s.popEnd b).opPort = s.opPort ∧
    (s.popEnd b).bundle = s.bundle ∧ (s.popEnd b).qPhase = s.qPhase ∧
    (s.popEnd b).pOut = s.pOut ∧ (s.popEnd b).qOut = s.qOut ++ [.popped (some b)] ∧
    (s.popEnd b).turns = s.turns ∧ (s.popEnd b).sinkIn = s.sinkIn ∧
    (s.popEnd b).freeIx = s.freeIx ∧ (s.popEnd b).sinkLog = s.sinkLog ∧
    (s.popEnd b).refusalMark = s.refusalMark ∧ (s.popEnd b).ghost = s.ghost ++ [.ok] := by and_intros <;> rfl

/-- The end of a POP that returns none. -/
@[simp] theorem popNone_fields (s : State) :
    s.popNone.cfg = s.cfg ∧ s.popNone.crchReg = s.crchReg ∧
    s.popNone.crcfReg = s.crcfReg ∧ s.popNone.ring = s.ring ∧
    s.popNone.posIn = s.posIn ∧ s.popNone.posOut = s.posOut ∧
    s.popNone.inLen = s.inLen ∧ s.popNone.rx = s.rx ∧
    s.popNone.txBusy = s.txBusy ∧ s.popNone.txBytes = s.txBytes ∧
    s.popNone.txIdx = s.txIdx ∧ s.popNone.pReqs = s.pReqs ∧
    s.popNone.qReqs = s.qReqs ∧ s.popNone.opPort = s.opPort ∧
    s.popNone.bundle = s.bundle ∧ s.popNone.qPhase = s.qPhase ∧
    s.popNone.pOut = s.pOut ∧ s.popNone.qOut = s.qOut ++ [.popped none] ∧
    s.popNone.turns = s.turns ∧ s.popNone.sinkIn = s.sinkIn ∧
    s.popNone.freeIx = s.freeIx ∧ s.popNone.sinkLog = s.sinkLog ∧
    s.popNone.refusalMark = s.refusalMark ∧ s.popNone.ghost = s.ghost ++ [.fifoEmpty] := by and_intros <;> rfl

/-- The end of an AVAILABLE. -/
@[simp] theorem available_fields (s : State) (p : Cursor) :
    (s.available p).cfg = s.cfg ∧ (s.available p).crchReg = s.crchReg ∧
    (s.available p).crcfReg = s.crcfReg ∧ (s.available p).ring = s.ring ∧
    (s.available p).posIn = s.posIn ∧ (s.available p).posOut = s.posOut ∧
    (s.available p).inLen = s.inLen ∧ (s.available p).rx = s.rx ∧
    (s.available p).txBusy = s.txBusy ∧ (s.available p).txBytes = s.txBytes ∧
    (s.available p).txIdx = s.txIdx ∧ (s.available p).pReqs = s.pReqs ∧
    (s.available p).qReqs = s.qReqs ∧ (s.available p).opPort = s.opPort ∧
    (s.available p).bundle = s.bundle ∧ (s.available p).qPhase = s.qPhase ∧
    (s.available p).pOut = s.pOut ∧ (s.available p).qOut = s.qOut ++ [.count (fifoCount p s.posOut)] ∧
    (s.available p).turns = s.turns ∧ (s.available p).sinkIn = s.sinkIn ∧
    (s.available p).freeIx = s.freeIx ∧ (s.available p).sinkLog = s.sinkLog ∧
    (s.available p).refusalMark = s.refusalMark ∧ (s.available p).ghost = s.ghost ++ [.ok] := by and_intros <;> rfl

/-- Micro-step Q1 of POP. -/
@[simp] theorem popQ1_fields (s : State) :
    s.popQ1.cfg = s.cfg ∧ s.popQ1.crchReg = s.crchReg ∧
    s.popQ1.crcfReg = s.crcfReg ∧ s.popQ1.ring = s.ring ∧
    s.popQ1.posIn = s.posIn ∧ s.popQ1.posOut = s.posOut ∧
    s.popQ1.inLen = s.inLen ∧ s.popQ1.rx = s.rx ∧
    s.popQ1.txBusy = s.txBusy ∧ s.popQ1.txBytes = s.txBytes ∧
    s.popQ1.txIdx = s.txIdx ∧ s.popQ1.pReqs = s.pReqs ∧
    s.popQ1.qReqs = s.qReqs ∧ s.popQ1.opPort = s.opPort ∧
    s.popQ1.bundle = s.bundle ∧ s.popQ1.qPhase = .popRead s.posIn ∧
    s.popQ1.pOut = s.pOut ∧ s.popQ1.qOut = s.qOut ∧
    s.popQ1.turns = s.turns ∧ s.popQ1.sinkIn = s.sinkIn ∧
    s.popQ1.freeIx = s.freeIx ∧ s.popQ1.sinkLog = s.sinkLog ∧
    s.popQ1.refusalMark = s.refusalMark ∧ s.popQ1.ghost = s.ghost := by and_intros <;> rfl

/-- Micro-step Q1 of AVAILABLE. -/
@[simp] theorem availableQ1_fields (s : State) :
    s.availableQ1.cfg = s.cfg ∧ s.availableQ1.crchReg = s.crchReg ∧
    s.availableQ1.crcfReg = s.crcfReg ∧ s.availableQ1.ring = s.ring ∧
    s.availableQ1.posIn = s.posIn ∧ s.availableQ1.posOut = s.posOut ∧
    s.availableQ1.inLen = s.inLen ∧ s.availableQ1.rx = s.rx ∧
    s.availableQ1.txBusy = s.txBusy ∧ s.availableQ1.txBytes = s.txBytes ∧
    s.availableQ1.txIdx = s.txIdx ∧ s.availableQ1.pReqs = s.pReqs ∧
    s.availableQ1.qReqs = s.qReqs ∧ s.availableQ1.opPort = s.opPort ∧
    s.availableQ1.bundle = s.bundle ∧ s.availableQ1.qPhase = .availRead s.posIn ∧
    s.availableQ1.pOut = s.pOut ∧ s.availableQ1.qOut = s.qOut ∧
    s.availableQ1.turns = s.turns ∧ s.availableQ1.sinkIn = s.sinkIn ∧
    s.availableQ1.freeIx = s.freeIx ∧ s.availableQ1.sinkLog = s.sinkLog ∧
    s.availableQ1.refusalMark = s.refusalMark ∧ s.availableQ1.ghost = s.ghost := by and_intros <;> rfl

/-- A request on the port that admits it. -/
@[simp] theorem onItsPort_fields (s : State) (i : Instr) :
    (s.onItsPort i).cfg = s.cfg ∧ (s.onItsPort i).crchReg = s.crchReg ∧
    (s.onItsPort i).crcfReg = s.crcfReg ∧ (s.onItsPort i).ring = s.ring ∧
    (s.onItsPort i).posIn = s.posIn ∧ (s.onItsPort i).posOut = s.posOut ∧
    (s.onItsPort i).inLen = s.inLen ∧ (s.onItsPort i).rx = s.rx ∧
    (s.onItsPort i).txBusy = s.txBusy ∧ (s.onItsPort i).txBytes = s.txBytes ∧
    (s.onItsPort i).txIdx = s.txIdx ∧ (s.onItsPort i).pReqs = s.pReqs ∧
    (s.onItsPort i).qReqs = s.qReqs ∧ (s.onItsPort i).opPort = i.port ∧
    (s.onItsPort i).bundle = s.bundle ∧ (s.onItsPort i).qPhase = s.qPhase ∧
    (s.onItsPort i).pOut = s.pOut ∧ (s.onItsPort i).qOut = s.qOut ∧
    (s.onItsPort i).turns = s.turns ∧ (s.onItsPort i).sinkIn = s.sinkIn ∧
    (s.onItsPort i).freeIx = s.freeIx ∧ (s.onItsPort i).sinkLog = s.sinkLog ∧
    (s.onItsPort i).refusalMark = s.refusalMark ∧ (s.onItsPort i).ghost = s.ghost := by and_intros <;> rfl

/-- A refused request changes nothing of the block. -/
@[simp] theorem refuse_block (s : State) (p : Port) (r : Result) (c : OutcomeCode) : (s.refuse p r c).block = s.block := by
  cases p <;> rfl

/-- A result changes nothing of the block. -/
@[simp] theorem reply_block (s : State) (p : Port) (r : Result) (c : OutcomeCode) : (s.reply p r c).block = s.block := by
  cases p <;> rfl

/-- A refused request changes nothing but the mark, the results and the ghost record. -/
@[simp] theorem refuse_fields (s : State) (p : Port) (r : Result) (c : OutcomeCode) :
    (s.refuse p r c).cfg = s.cfg ∧ (s.refuse p r c).refusalMark = true ∧ (s.refuse p r c).ghost = s.ghost ++ [c] ∧
    (s.refuse p r c).turns = s.turns ∧ (s.refuse p r c).pReqs = s.pReqs ∧ (s.refuse p r c).qReqs = s.qReqs ∧
    (s.refuse p r c).qPhase = s.qPhase ∧ (s.refuse p r c).opPort = s.opPort ∧ (s.refuse p r c).bundle = s.bundle ∧
    (s.refuse p r c).sinkIn = s.sinkIn ∧ (s.refuse p r c).sinkLog = s.sinkLog ∧ (s.refuse p r c).freeIx = s.freeIx := by
  cases p <;> and_intros <;> rfl

/-- An operation on the port that admits it has its effect. -/
@[simp] theorem checkPort_of_port {s : State} {i : Instr} (t : State) (h : s.opPort = i.port) : s.checkPort i t = t := if_pos h

/-- An operation on the other port is refused. -/
@[simp] theorem checkPort_of_wrong_port {s : State} {i : Instr} (t : State) (h : s.opPort ≠ i.port) :
    s.checkPort i t = s.portViolation i := if_neg h

/-- What a port check can answer. -/
theorem checkPort_cases (s : State) (i : Instr) (t : State) :
    (s.opPort = i.port ∧ s.checkPort i t = t) ∨ (s.opPort ≠ i.port ∧ s.checkPort i t = s.portViolation i) := by
  by_cases h : s.opPort = i.port
  · exact .inl ⟨h, if_pos h⟩
  · exact .inr ⟨h, if_neg h⟩

/-- A port violation changes nothing of the block. -/
@[simp] theorem portViolation_block (s : State) (i : Instr) : (s.portViolation i).block = s.block :=
  refuse_block _ _ _ _

/-- An illegal word changes nothing of the block. -/
@[simp] theorem illegalOp_block (s : State) (p : Port) (w : Half) : (s.illegalOp p w).block = s.block :=
  refuse_block _ _ _ _

end Sys2Proof.Machine
end

