-- ==== Sys2Proof/Laws/Exec.lean ====
section
/-! SUPPORT. What an operation and a step can do, said once: every operation is a port check around one effect, and every
step is one of a few cases. -/

namespace Sys2Proof.Machine

/-- The effect of each operation once its port check has passed. -/
def effect (s : State) : Instr → State
  | .crchReset => ({ s with crchReg := crcInit s.cfg.hcrc } : State).reply .consumer .done .ok
  | .crchUpdate d => ({ s with crchReg := crcUpdate s.cfg.hcrc s.crchReg d } : State).reply .consumer .done .ok
  | .crchFinalize => s.reply .consumer (.crcH (crcFinal s.cfg.hcrc s.crchReg)) .ok
  | .crcfReset => ({ s with crcfReg := fcrcInit s.cfg } : State).reply .consumer .done .ok
  | .crcfUpdate d => ({ s with crcfReg := fcrcUpdate s.cfg s.crcfReg d } : State).reply .consumer .done .ok
  | .crcfFinalize => s.reply .consumer (.crcF (fcrcFinal s.cfg s.crcfReg)) .ok
  | .fifoPush d => s.push d
  | .fifoPop => s.pop
  | .fifoAvailable => s.available s.posIn
  | .rxReset => ({ s with inLen := 0 } : State).reply .consumer .done .ok
  | .rxHandleByte d => s.handleByte d
  | .guardCrc => s.reply .consumer (.frameOpt (guardCrc s.cfg s.bundle.frameOpt))
      (guardCode s.bundle.frameOpt (guardCrc s.cfg s.bundle.frameOpt) .fcrcMismatch)
  | .guardAddr => s.reply .consumer (.frameOpt (guardAddr s.bundle.addr s.bundle.frameOpt))
      (guardCode s.bundle.frameOpt (guardAddr s.bundle.addr s.bundle.frameOpt) .addrMismatch)
  | .frameUpdateCrc => s.reply .consumer (.frame (withChecksums s.cfg s.bundle.frame)) .ok
  | .txSend => s.sendIssue

/-- Every operation is a port check around its effect. -/
theorem exec_eq_checkPort (i : Instr) (s : State) : exec i s = .next (s.checkPort i (effect s i)) := by
  cases i <;> rfl

/-- On the port that admits it, an operation has its effect. -/
theorem exec_of_port {i : Instr} {s : State} (h : s.opPort = i.port) : exec i s = .next (effect s i) := by
  rw [exec_eq_checkPort, checkPort_of_port _ h]

/-- On the other port, an operation is refused. -/
theorem exec_of_wrong_port {i : Instr} {s : State} (h : s.opPort ≠ i.port) : exec i s = .next (s.portViolation i) := by
  rw [exec_eq_checkPort, checkPort_of_wrong_port _ h]

/-- What an operation can do: its effect on its own port, its refusal on the other. -/
theorem exec_cases {i : Instr} {s t : State} (h : exec i s = .next t) :
    (s.opPort = i.port ∧ t = effect s i) ∨ (s.opPort ≠ i.port ∧ t = s.portViolation i) := by
  rw [exec_eq_checkPort] at h
  cases h
  exact checkPort_cases s i (effect s i)

/-- What a served request can do: the refusal of an illegal word, or its operation. -/
theorem serve_cases {s t : State} {p : Port} {r : Request} (h : s.serve p r = .next t) :
    t = s.illegalOp p r.word ∨
    ∃ i, decode r.word = .ok i ∧ exec i { s with opPort := p, bundle := r.bundle } = .next t := by
  unfold State.serve at h
  split at h
  · cases h; exact .inl rfl
  · rename_i i hi
    exact .inr ⟨i, hi, h⟩

/-- What a request served on a micro-stepped turn can do: micro-step Q1, or what it does on any turn. -/
theorem serveMicro_cases {s t : State} {r : Request} (h : s.serveMicro r = .next t) :
    t = ({ s with opPort := .consumer, bundle := r.bundle } : State).popQ1 ∨
    t = ({ s with opPort := .consumer, bundle := r.bundle } : State).availableQ1 ∨ s.serve .consumer r = .next t := by
  unfold State.serveMicro at h
  split at h
  · exact .inr (.inr h)
  · rename_i i hi
    cases i <;> simp only [State.firstMicroStep] at h <;>
      first
        | (cases h; exact .inl rfl)
        | (cases h; exact .inr (.inl rfl))
        | exact .inr (.inr h)

/-- The choice of a side uses up at most a planned turn or a free value. -/
theorem nextTurn_state (s : State) :
    ∃ turns ix, s.nextTurn.2 = { s with turns := turns, freeIx := ix } := by
  unfold State.nextTurn
  split
  · exact ⟨_, s.freeIx, rfl⟩
  · split
    · exact ⟨s.turns, s.freeIx, rfl⟩
    · exact ⟨s.turns, s.freeIx, rfl⟩
    · exact ⟨s.turns, s.freeIx, rfl⟩
    · exact ⟨s.turns, _, rfl⟩

/-- What a producer step can do. -/
theorem producerStep_cases {s t : State} (h : s.producerStep = .next t) :
    (s.pReqs = [] ∧ t = s) ∨
    ∃ r rest, s.pReqs = r :: rest ∧ ({ s with pReqs := rest } : State).serve .producer r = .next t := by
  unfold State.producerStep at h
  split at h
  · rename_i h0
    cases h; exact .inl ⟨h0, rfl⟩
  · rename_i r rest h0
    exact .inr ⟨r, rest, h0, h⟩

/-- What a consumer step can do, however it serves a request. -/
theorem consumerStepBy_cases {s t : State} {serve : State → Request → Host.Outcome State Fault Refusal}
    (h : s.consumerStepBy serve = .next t) :
    (s.txBusy = true ∧ t = s.sendStep) ∨
    (s.txBusy = false ∧ s.qPhase ≠ .idle ∧ t = s.microStep) ∨
    (s.txBusy = false ∧ s.qPhase = .idle ∧ s.qReqs = [] ∧ t = s) ∨
    (s.txBusy = false ∧ s.qPhase = .idle ∧ ∃ r rest, s.qReqs = r :: rest ∧ serve { s with qReqs := rest } r = .next t) := by
  unfold State.consumerStepBy at h
  split at h
  · rename_i hb
    cases h; exact .inl ⟨hb, rfl⟩
  · rename_i hb
    have hb' : s.txBusy = false := by simpa using hb
    split at h
    · rename_i hp
      cases h; exact .inr (.inl ⟨hb', hp, rfl⟩)
    · rename_i hp
      have hp' : s.qPhase = .idle := by simpa using hp
      split at h
      · rename_i hq
        cases h; exact .inr (.inr (.inl ⟨hb', hp', hq, rfl⟩))
      · rename_i r rest hq
        exact .inr (.inr (.inr ⟨hb', hp', r, rest, hq, h⟩))

/-- What a step can do: nothing, or the step of the side whose turn it is. -/
theorem step_cases {s t : State} (h : step s = .next t) :
    (s.nextTurn.1 = none ∧ t = s) ∨
    (s.nextTurn.1 = some .producer ∧ s.nextTurn.2.producerStep = .next t) ∨
    (s.nextTurn.1 = some .consumer ∧ s.nextTurn.2.consumerStep = .next t) ∨
    (s.nextTurn.1 = some .consumerMicro ∧ s.nextTurn.2.consumerMicroStep = .next t) := by
  unfold step at h
  split at h
  · rename_i h0
    cases h; exact .inl ⟨h0, rfl⟩
  · rename_i u h0
    cases u
    · exact .inr (.inl ⟨h0, h⟩)
    · exact .inr (.inr (.inl ⟨h0, h⟩))
    · exact .inr (.inr (.inr ⟨h0, h⟩))

/-- What a step of a send in progress can do, with the answer it drew. -/
theorem sendStep_cases (s : State) :
    (∃ b a sinkIn ix, s.txBytes[s.txIdx.toNat]? = some b ∧
      s.sendStep = ({ s with sinkIn := sinkIn, freeIx := ix } : State).sendAnswered b a) ∨
    (s.txBytes[s.txIdx.toNat]? = none ∧ s.sendStep = s.sendClear.reply .consumer .sent .ok) := by
  unfold State.sendStep
  split
  · rename_i b hb
    refine .inl ⟨b, s.sinkAnswer.1, ?_⟩
    unfold State.sinkAnswer
    split
    · exact ⟨_, s.freeIx, hb, rfl⟩
    · exact ⟨s.sinkIn, _, hb, rfl⟩
  · rename_i hb
    exact .inr ⟨hb, rfl⟩

/-- Operations run one after another: first the ones, then the others. -/
theorem runOps_append (a b : List Instr) (s : State) : runOps (a ++ b) s = andThen (runOps a s) (runOps b) := by
  induction a generalizing s with
  | nil => rfl
  | cons i a ih =>
    rw [List.cons_append, runOps, runOps, exec_eq_checkPort]
    exact ih _

/-- One operation and then others, where the first is on its port. -/
theorem runOps_cons_of_port {i : Instr} {s : State} (rest : List Instr) (h : s.opPort = i.port) :
    runOps (i :: rest) s = runOps rest (effect s i) := by
  rw [runOps, exec_of_port h]; rfl

/-- An operation's effect does not move its request to another port. -/
@[simp] theorem effect_opPort (s : State) (i : Instr) : (effect s i).opPort = s.opPort := by
  cases i <;> simp only [effect, reply_consumer_fields, available_fields, sendIssue_fields, State.handleByte]
  case fifoPush d => unfold State.push; split <;> rfl
  case fifoPop => unfold State.pop; split <;> rfl

/-- A pseudo-instruction's lines are its operations, in order (30_encoding.md R79). -/
@[simp] theorem lines_ops (p : Pseudo) : p.lines.map (·.op) = p.expand := by
  cases p <;> simp [Pseudo.lines, Pseudo.lines.plainLines, Pseudo.expand]

/-- On the consumer port, lines that name no bundle run as their operations do. -/
theorem runLines_plain (ops : List Instr) (s : State) (hs : s.opPort = .consumer) (hi : ∀ i ∈ ops, i.port = .consumer) :
    runLines (Pseudo.lines.plainLines ops) s = runOps ops s := by
  induction ops generalizing s with
  | nil => rfl
  | cons i ops ih =>
    have hp : i.port = .consumer := hi i List.mem_cons_self
    have he : ({ s with opPort := i.port, bundle := s.lineBundle .plain } : State) = s := by rw [hp, ← hs]; rfl
    have hr := ih (effect s i) ((effect_opPort s i).trans hs) (fun j hj => hi j (List.mem_cons_of_mem i hj))
    rw [runOps_cons_of_port ops (hs.trans hp.symm), ← hr]
    show andThen (exec i { s with opPort := i.port, bundle := s.lineBundle .plain }) _ = _
    rw [he, exec_of_port (hs.trans hp.symm)]
    rfl

/-- GUARD.BOTH: the address guard is given what the checksum guard returned (30_encoding.md R79), and nothing of the block
changes. -/
theorem runLines_guardBoth (s : State) (f : Option Frame) (a : Addr) :
    ∃ t, runLines (Pseudo.guardBoth f a).lines s = .next t ∧ t.block = s.block ∧
      t.qOut = s.qOut ++ [.frameOpt (guardCrc s.cfg f), .frameOpt (guardAddr a (guardCrc s.cfg f))] := by
  refine ⟨_, rfl, rfl, ?_⟩
  simp [State.lineBundle, lastFrameOpt, State.frameOptOperand, State.addrOperand]

end Sys2Proof.Machine
end

