-- ==== Sys2Proof/Laws/PerInstr.lean ====
section
/-! SUPPORT. A statement about every operation, one lemma a constructor: its word selects its own row of the opcode map
(30_encoding.md R72, R73). -/

namespace Sys2Proof.Laws.TableRow

/-- The word of the operation selects the operation's row, and its low byte is the operand. -/
def Statement (i : Instr) : Prop :=
  encode i &&& i.row.mask = i.row.pattern ∧ (encode i).extractLsb' 0 8 = i.data

theorem crchReset : Statement .crchReset := by unfold Statement; decide
theorem crchUpdate (d : Byte) : Statement (.crchUpdate d) := by revert d; unfold Statement; decide +kernel
theorem crchFinalize : Statement .crchFinalize := by unfold Statement; decide
theorem crcfReset : Statement .crcfReset := by unfold Statement; decide
theorem crcfUpdate (d : Byte) : Statement (.crcfUpdate d) := by revert d; unfold Statement; decide +kernel
theorem crcfFinalize : Statement .crcfFinalize := by unfold Statement; decide
theorem fifoPush (d : Byte) : Statement (.fifoPush d) := by revert d; unfold Statement; decide +kernel
theorem fifoPop : Statement .fifoPop := by unfold Statement; decide
theorem fifoAvailable : Statement .fifoAvailable := by unfold Statement; decide
theorem rxReset : Statement .rxReset := by unfold Statement; decide
theorem rxHandleByte (d : Byte) : Statement (.rxHandleByte d) := by revert d; unfold Statement; decide +kernel
theorem guardCrc : Statement .guardCrc := by unfold Statement; decide
theorem guardAddr : Statement .guardAddr := by unfold Statement; decide
theorem frameUpdateCrc : Statement .frameUpdateCrc := by unfold Statement; decide
theorem txSend : Statement .txSend := by unfold Statement; decide

end Sys2Proof.Laws.TableRow
end

