-- ==== Sys2Proof/Laws/Wire.lean ====
section
/-! SUPPORT. The fields of the wire frame as bytes and positions (30_encoding.md R81, R84). -/

namespace Sys2Proof.Machine

/-- A 16-bit field is `le16` of its value (00_scope.md R10). -/
@[simp] theorem leField_half (v : BitVec 16) : leField v = [v.extractLsb' 0 8, v.extractLsb' 8 8] := rfl

/-- A one-byte field is its value. -/
@[simp] theorem leField_byte (v : Byte) : leField v = [v] := by
  simp [leField, leBytes, fieldBytes, byteLane, List.range_succ]

/-- The only lane of a byte is the byte. -/
@[simp] theorem setLane_byte (v d : Byte) : setLane v 0 d = d := by
  simp [setLane]

/-- The next position of the parser. -/
theorem inLen_next_toNat (i : InLen) : (i + 1).toNat = (i.toNat + 1) % 65536 := BitVec.toNat_add i 1

/-- A payload length is below 256. -/
theorem payloadLen_lt (n : PayloadLen) : n.toNat < 256 := n.isLt

end Sys2Proof.Machine
end

