-- ==== Sys2Proof/Tests/Slice0.lean ====
section
/-! SUPPORT. Small tests: the well-formedness checks, a decoded word for every operation written from 30_encoding.md, one or
two single operations each with its expected result from 95_test_vectors.md, and for every statement with hypotheses a
concrete case that meets them (the witness theorems). -/

namespace Sys2Proof.Tests

open Sys2Proof Sys2Proof.Machine

-- One test at a time: many at once need more threads than the checker's memory limit has stacks for.
set_option Elab.async false

/-- The next state of an outcome. -/
def after : Host.Outcome State Fault Refusal → State
  | .next s => s
  | .fault r => nomatch r
  | .refused _ => State.reset

/-- The frame of 95_test_vectors.md vector X1. -/
def x1 : Frame :=
  { src := 0x0001, dst := 0x0010, cmd := 0x0100, payloadLen := 0, payload := [], hCrc := 0x9E, fCrc := 0xBC3C2026 }

/-- The frame of vector T1, with no checksums. -/
def t1 : Frame :=
  { src := 0x0010, dst := 0x0001, cmd := 0x0100, payloadLen := 4, payload := [(0, 0x02), (1, 0x00), (2, 0x00), (3, 0x00)],
    hCrc := 0x00, fCrc := 0x00000000 }

/-- The frame p7f of section 3.3. -/
def p7f : Frame :=
  { src := 0x1234, dst := 0x0010, cmd := 0x0100, payloadLen := 2, payload := [(0, 0x00), (1, 0x7F)], hCrc := 0, fCrc := 0 }

/-- The generation (0, 0, 0, 1) of section 3.3. -/
def small : Config := { Config.hw with markers := false, hasSrc := false, hasCmd := false, fcrcBytes := .one }

/-- A generation whose algorithms are reflected the other way round than this hardware's. -/
def mirrored : Config :=
  { Config.hw with
    hcrc := { Config.hcrcAlg with reflect := true }, fcrc8 := { Config.hcrcAlg with reflect := true },
    fcrc32 := { Config.crc32Alg with reflect := false } }

/-- The machine after reset with the FIFO cursors and slots given. -/
def fifo (ring : Memory) (posIn posOut : Byte) : State := { State.reset with ring := ring, posIn := posIn, posOut := posOut }

/-- A bundle with a `FRAME` and a `FRAME?` operand, and the address 0x0010. -/
def bundle (f : Frame) (o : Option Frame) : Bundle := { frame := f, frameOpt := o, addr := 0x0010 }

/-- The machine after reset, serving a request with this bundle on the consumer port. -/
def serving (f : Frame) (o : Option Frame) : State := { State.reset with bundle := bundle f o }

/-- The machine after reset, serving a request on the producer port. -/
def producing : State := { State.reset with opPort := .producer }

/-- The parser at position `i` with frame `f` in progress. -/
def receiving (i : Half) (f : Frame) : State := { State.reset with inLen := i, rx := f }

/-- One byte in slot 255, and the frame of X1 complete but for its last byte. -/
def midFrame : State := { fifo [(255, 0x07)] 0 255 with inLen := 13, rx := x1 }

/-- A send whose first byte the sink has taken, and the sink's planned answers. -/
def sending (answers : List SinkAnswer) : State :=
  { State.reset with
    txBusy := true, txBytes := [0xAA, 0x55], txIdx := 1, sinkIn := answers, sinkLog := [(0xAA, .accept)] }

/-- A request with no bundle waits on the producer port. -/
def pWaits (w : Half) : State := { State.reset with pReqs := [{ word := w, bundle := Bundle.blank }] }

/-- A request with no bundle waits on the consumer port. -/
def qWaits (w : Half) : State := { State.reset with qReqs := [{ word := w, bundle := Bundle.blank }] }

/-! ### Well-formedness -/

theorem test_wf_refuses_falling_indexes : ¬ Memory.wf [(1, 0x00), (0, 0x00)] 256 := by decide
theorem test_wf_refuses_a_repeated_index : ¬ Memory.wf [(1, 0x00), (1, 0x00)] 256 := by decide
theorem test_wf_refuses_an_index_past_the_space : ¬ Memory.wf [(256, 0x00)] 256 := by decide
theorem test_wf_refuses_a_checksum_wider_than_the_generation : ¬ Frame.wf small { p7f with fCrc := 0x00000100 } := by decide
theorem test_wf_refuses_an_ill_formed_payload : ¬ Frame.wf Config.hw { p7f with payload := [(256, 0x00)] } := by decide
theorem test_wf_refuses_a_bundle_with_an_ill_formed_frame :
    ¬ Bundle.wf small (bundle p7f (some { p7f with fCrc := 0x00000100 })) := by decide
theorem test_wf_accepts : Bundle.wf Config.hw (bundle t1 (some x1)) ∧ Memory.wf [(0, 0x00), (255, 0xFF)] 256 := by decide

/-! ### Decoding: `UNIT`, `OP` and `DATA` written out from R71 to R73 -/

theorem test_decode_crch_reset : decode (0b0001#4 ++ 0b0000#4 ++ 0b00000000#8) = .ok .crchReset := by decide
theorem test_decode_crch_update : decode (0b0001#4 ++ 0b0001#4 ++ 0b10101010#8) = .ok (.crchUpdate 0xAA) := by decide
theorem test_decode_crch_finalize : decode (0b0001#4 ++ 0b0010#4 ++ 0b00000000#8) = .ok .crchFinalize := by decide
theorem test_decode_crcf_reset : decode (0b0010#4 ++ 0b0000#4 ++ 0b00000000#8) = .ok .crcfReset := by decide
theorem test_decode_crcf_update : decode (0b0010#4 ++ 0b0001#4 ++ 0b00110001#8) = .ok (.crcfUpdate 0x31) := by decide
theorem test_decode_crcf_finalize : decode (0b0010#4 ++ 0b0010#4 ++ 0b00000000#8) = .ok .crcfFinalize := by decide
theorem test_decode_fifo_push : decode (0b0011#4 ++ 0b0001#4 ++ 0b11111111#8) = .ok (.fifoPush 0xFF) := by decide
theorem test_decode_fifo_pop : decode (0b0011#4 ++ 0b0010#4 ++ 0b00000000#8) = .ok .fifoPop := by decide
theorem test_decode_fifo_available : decode (0b0011#4 ++ 0b0011#4 ++ 0b00000000#8) = .ok .fifoAvailable := by decide
theorem test_decode_rx_reset : decode (0b0100#4 ++ 0b0000#4 ++ 0b00000000#8) = .ok .rxReset := by decide
theorem test_decode_rx_handle_byte : decode (0b0100#4 ++ 0b0001#4 ++ 0b01010101#8) = .ok (.rxHandleByte 0x55) := by decide
theorem test_decode_guard_crc : decode (0b0101#4 ++ 0b0001#4 ++ 0b00000000#8) = .ok .guardCrc := by decide
theorem test_decode_guard_addr : decode (0b0101#4 ++ 0b0010#4 ++ 0b00000000#8) = .ok .guardAddr := by decide
theorem test_decode_frame_update_crc : decode (0b0101#4 ++ 0b0011#4 ++ 0b00000000#8) = .ok .frameUpdateCrc := by decide
theorem test_decode_tx_send : decode (0b0110#4 ++ 0b0001#4 ++ 0b00000000#8) = .ok .txSend := by decide
theorem test_decode_refuses_a_reserved_unit : decode 0x0000 = .illegal .reservedUnit ∧ decode 0xF1FF = .illegal .reservedUnit := by
  decide
theorem test_decode_refuses_a_reserved_operation : decode 0x1300 = .illegal .reservedOp ∧ decode 0x6000 = .illegal .reservedOp := by
  decide
theorem test_decode_refuses_nonzero_data : decode 0x1201 = .illegal .nonzeroData ∧ decode 0x6180 = .illegal .nonzeroData := by
  decide
theorem test_table_word : decodeTableWord 16 0x31FF = some (.fifoPush 0xFF) ∧ decodeTableWord 16 0x3000 = none ∧
    decodeTableWord 24 0x1000 = none := by decide

/-! ### One operation each (95_test_vectors.md) -/

/-- R104: example. -/
theorem test_crch_reset : (after (exec .crchReset { State.reset with crchReg := 0x12 })).crchReg = 0xFF := by decide +kernel
/-- R105: example. -/
theorem test_crch_update_from_reset : (after (exec (.crchUpdate 0xAA) State.reset)).crchReg = 0xDB := by decide +kernel
/-- Section 1.3: UPDATE 0x00 is not a no-op. -/
theorem test_crch_update_zero : (after (exec (.crchUpdate 0x00) State.reset)).crchReg = 0x42 := by decide +kernel
/-- R107: example. -/
theorem test_crch_finalize :
    (after (exec .crchFinalize { State.reset with crchReg := 0xB0 })).qOut = [.crcH 0x4F] := by decide +kernel
/-- R104: example. -/
theorem test_crcf_reset : (after (exec .crcfReset { State.reset with crcfReg := 0x12 })).crcfReg = 0xFFFFFFFF := by
  decide +kernel
/-- R106: example. -/
theorem test_crcf_update_from_reset : (after (exec (.crcfUpdate 0x31) State.reset)).crcfReg = 0x7C231048 := by decide +kernel
/-- Section 1.2: the register after "2" from its value after "1". -/
theorem test_crcf_update_again :
    (after (exec (.crcfUpdate 0x32) { State.reset with crcfReg := 0x7C231048 })).crcfReg = 0xB0ACBB32 := by decide +kernel
/-- Section 1.2: FINALIZE after "123456789". -/
theorem test_crcf_finalize :
    (after (exec .crcfFinalize { State.reset with crcfReg := 0x340BC6D9 })).qOut = [.crcF 0xCBF43926] := by decide +kernel
/-- Vector F7: the cursor wraps. -/
theorem test_push_wraps :
    let t := after (exec (.fifoPush 0x07) { fifo [] 255 1 with opPort := .producer })
    t.pOut = [.pushed true] ∧ t.posIn = 0 ∧ t.posOut = 1 ∧ t.ring = [(255, 0x07)] := by decide +kernel
/-- Vector F6: full. -/
theorem test_push_full :
    let t := after (exec (.fifoPush 0x07) { fifo [] 255 0 with opPort := .producer })
    t.pOut = [.pushed false] ∧ t.posIn = 255 ∧ t.ring = [] := by decide +kernel
/-- Vector F8: the cursor wraps. -/
theorem test_pop_wraps :
    let t := after (exec .fifoPop (fifo [(255, 0x07)] 0 255))
    t.qOut = [.popped (some 0x07)] ∧ t.posOut = 0 := by decide +kernel
/-- Vector F3: empty. -/
theorem test_pop_empty :
    let t := after (exec .fifoPop (fifo [] 1 1))
    t.qOut = [.popped none] ∧ t.posOut = 1 := by decide +kernel
/-- Vectors F4 and F10. -/
theorem test_available :
    (after (exec .fifoAvailable (fifo [] 2 250))).qOut = [.count 8] ∧
    (after (exec .fifoAvailable (fifo [] 6 7))).qOut = [.count 255] := by decide +kernel
/-- R171. -/
theorem test_rx_reset :
    let t := after (exec .rxReset (receiving 5 x1))
    t.inLen = 0 ∧ t.rx = x1 ∧ t.qOut = [.done] := by decide +kernel
/-- Vector X1: the last of the 14 bytes. -/
theorem test_rx_last_byte :
    let t := after (exec (.rxHandleByte 0xBC) (receiving 13 { x1 with fCrc := 0x003C2026 }))
    t.inLen = 0 ∧ t.qOut = [.frameOpt (some x1)] := by decide +kernel
/-- Vector X4: the header checksum fails at position 9. -/
theorem test_rx_header_checksum :
    (after (exec (.rxHandleByte 0x61) (receiving 9 x1))).inLen = 0 ∧
    (after (exec (.rxHandleByte 0x9E) (receiving 9 x1))).inLen = 10 := by decide +kernel
/-- Vectors G2 and G3. -/
theorem test_guard_crc :
    (after (exec .guardCrc (serving Frame.blank (some x1)))).qOut = [.frameOpt (some x1)] ∧
    (after (exec .guardCrc (serving Frame.blank (some { x1 with fCrc := 0xBC3C2027 })))).qOut = [.frameOpt none] := by
  decide +kernel
/-- Vector G5: `h_crc` is not checked again. -/
theorem test_guard_crc_ignores_h_crc :
    let f := { x1 with hCrc := 0x00, fCrc := 0xAB8B9E65 }
    (after (exec .guardCrc (serving Frame.blank (some f)))).qOut = [.frameOpt (some f)] := by decide +kernel
/-- Section 5.1: `dst` 0x0010 passes the address 0x0010, `dst` 0x1000 does not. -/
theorem test_guard_addr :
    (after (exec .guardAddr (serving Frame.blank (some x1)))).qOut = [.frameOpt (some x1)] ∧
    (after (exec .guardAddr (serving Frame.blank (some { x1 with dst := 0x1000 })))).qOut = [.frameOpt none] := by
  decide +kernel
/-- Vector G9: GUARD.BOTH passes a correct frame for the address. -/
theorem test_guard_both_passes :
    (after (runLines (Pseudo.guardBoth (some x1) 0x0010).lines State.reset)).qOut =
      [.frameOpt (some x1), .frameOpt (some x1)] := by decide +kernel
/-- Vector G11 with the address right: what GUARD.CRC discards does not reach GUARD.ADDR, whatever the bundle held before. -/
theorem test_guard_both_hands_the_result_on :
    (after (runLines (Pseudo.guardBoth (some { x1 with fCrc := 0xBC3C2027 }) 0x0010).lines (serving t1 (some x1)))).qOut =
      [.frameOpt none, .frameOpt none] := by decide +kernel
/-- Vector T1. -/
theorem test_frame_update_crc :
    (after (exec .frameUpdateCrc (serving t1 none))).qOut = [.frame { t1 with hCrc := 0x78, fCrc := 0xE4A91CE1 }] := by
  decide +kernel
/-- Section 8.5: the bytes TX.SEND issues. -/
theorem test_tx_send_issue :
    let t := after (exec .txSend (serving t1 none))
    t.txBytes = [0xAA, 0x55, 0x10, 0x00, 0x01, 0x00, 0x00, 0x01, 0x04, 0x78, 0x02, 0x00, 0x00, 0x00, 0xE1, 0x1C, 0xA9, 0xE4] ∧
    t.txBusy = true ∧ t.txIdx = 0 ∧ t.qOut = [] := by decide +kernel
/-- Section 8.6: a transport error ends the send. -/
theorem test_tx_send_error :
    let t := (sending [.error 7]).sendStep
    t.txBusy = false ∧ t.txBytes = [] ∧ t.qOut = [.transportError 7] ∧ t.wire = [0xAA] := by decide +kernel
/-- Section 3.3: the wire bytes of the generation (0, 0, 0, 1). -/
theorem test_wire_of_the_smallest_generation :
    wireBytes small (withChecksums small p7f) = [0x10, 0x00, 0x02, 0x28, 0x00, 0x7F, 0x37] := by decide +kernel
/-- Section 3.3: of the generation (1, 0, 1, 4). -/
theorem test_wire_without_the_source_field :
    wireBytes { Config.hw with hasSrc := false } (withChecksums { Config.hw with hasSrc := false } p7f) =
      [0xAA, 0x55, 0x10, 0x00, 0x00, 0x01, 0x02, 0xC2, 0x00, 0x7F, 0xC4, 0x08, 0x76, 0xDC] := by decide +kernel
/-- Section 8.7: a push on the consumer port. -/
theorem test_port_violation :
    let t := after (step (qWaits 0x3141))
    t.qOut = [.portViolation 0x3141 .consumer] ∧ t.refusalMark = true ∧ t.block = State.reset.block := by decide +kernel
/-- Section 7: 0x3000 on the producer port is illegal before it is on the wrong port. -/
theorem test_illegal_before_port :
    let t := after (step (pWaits 0x3000))
    t.pOut = [.illegalOp 0x3000] ∧ t.refusalMark = true ∧ t.block = State.reset.block := by decide +kernel
/-- Vector F11: a push between Q1 and Q2 of a POP that finds the FIFO empty. -/
theorem test_push_inside_an_empty_pop :
    let t := ((fifo [] 5 5).popQ1.push 0x99).microStep
    t.qOut = [.popped none] ∧ t.posIn = 6 ∧ t.posOut = 5 ∧ t.qPhase = .idle := by decide +kernel
/-- Vector F12: a push between Q3 and Q4. -/
theorem test_push_inside_a_pop :
    let t := ((fifo [(5, 0x99)] 6 5).popQ1.microStep.microStep.push 0xAB).microStep
    t.qOut = [.popped (some 0x99)] ∧ t.posIn = 7 ∧ t.posOut = 6 ∧ t.ring = [(5, 0x99), (6, 0xAB)] := by decide +kernel
/-- 70_reset_and_hazards.md R282: the block waits. -/
theorem test_reset_waits : after (step State.reset) = State.reset := by decide +kernel
/-- 60_exceptions.md R250: the codes. -/
theorem test_outcome_codes : [OutcomeCode.ok, .fifoFull, .fifoEmpty, .markerMismatch, .hcrcMismatch, .fcrcMismatch,
    .addrMismatch, .transportError, .illegalOp, .portViolation].map OutcomeCode.code =
    [0x00, 0x01, 0x02, 0x10, 0x11, 0x12, 0x13, 0x20, 0x30, 0x31] := by decide

/-! ### Witnesses: for each statement with hypotheses, a case that meets them, each clause at a boundary of its range -/

theorem witness_DecodeAndEncodeAgree : decode 0x31FF = .ok (.fifoPush 0xFF) := by decide

theorem witness_IllegalWordRefusedWithoutEffect :
    (∀ i : Instr, (0x1201 : Half) &&& i.row.mask ≠ i.row.pattern) ∧
    ∀ i : Instr, (0x0000 : Half) &&& i.row.mask ≠ i.row.pattern := by
  constructor <;> intro i <;> cases i <;> simp only [Instr.row] <;> decide

theorem witness_WrongPortRefusedWithoutEffect :
    (Instr.fifoPush 0x41).port = .producer ∧ State.reset.opPort = .consumer ∧
    Instr.fifoPop.port = .consumer ∧ producing.opPort = .producer := by decide

theorem witness_StepRunsTheDecodedOperation :
    (decode 0x31FF = .ok (.fifoPush 0xFF) ∧ (pWaits 0x31FF).nextTurn.1 = some .producer ∧
      (pWaits 0x31FF).pReqs = [{ word := 0x31FF, bundle := Bundle.blank }]) ∧
    (decode 0x3200 = .ok .fifoPop ∧ (qWaits 0x3200).nextTurn.1 = some .consumer ∧ (qWaits 0x3200).txBusy = false ∧
      (qWaits 0x3200).qPhase = .idle ∧ (qWaits 0x3200).qReqs = [{ word := 0x3200, bundle := Bundle.blank }]) := by
  decide +kernel

theorem witness_PlacedWordIsTheNextOperationRun :
    decode 0x6100 = .ok .txSend ∧ State.reset.txBusy = false ∧ State.reset.qPhase = .idle := by decide

theorem witness_NextTurnIsPlannedForcedOrOpen :
    (({ State.reset with turns := [.producer] } : State).turns = .producer :: []) ∧
    ((pWaits 0x3141).turns = [] ∧ (pWaits 0x3141).pReqs ≠ [] ∧ (pWaits 0x3141).txBusy = false ∧
      (pWaits 0x3141).qPhase = .idle ∧ (pWaits 0x3141).qReqs = []) ∧
    ((qWaits 0x3200).turns = [] ∧ (qWaits 0x3200).pReqs = [] ∧ (qWaits 0x3200).qReqs ≠ []) ∧
    ((sending []).turns = [] ∧ (sending []).pReqs = [] ∧ (sending []).txBusy = true) ∧
    ((fifo [] 5 5).popQ1.turns = [] ∧ (fifo [] 5 5).popQ1.pReqs = [] ∧ (fifo [] 5 5).popQ1.qPhase ≠ .idle) ∧
    (let s := { sending [] with pReqs := (pWaits 0x3141).pReqs };
      s.turns = [] ∧ s.pReqs ≠ [] ∧ s.txBusy = true) ∧
    (State.reset.turns = [] ∧ State.reset.pReqs = [] ∧ State.reset.txBusy = false ∧ State.reset.qPhase = .idle ∧
      State.reset.qReqs = []) := by decide +kernel

theorem witness_CrcResetLoadsTheInitialValue :
    State.reset.opPort = .consumer ∧ State.reset.cfg.fcrcBytes = .four ∧ State.reset.cfg = Config.hw ∧
    (State.resetWith small).opPort = .consumer ∧ (State.resetWith small).cfg.fcrcBytes = .one := by decide +kernel

theorem witness_CrcPlainUpdateShiftsLeftEightTimes :
    (State.reset.opPort = .consumer ∧ State.reset.cfg.hcrc.reflect = false ∧ State.reset.cfg = Config.hw ∧
      State.reset.crchReg = 0xFF) ∧
    ((State.resetWith small).cfg.fcrcBytes = .one ∧ (State.resetWith small).cfg.fcrc8.reflect = false) ∧
    ((State.resetWith mirrored).cfg.fcrcBytes = .four ∧ (State.resetWith mirrored).cfg.fcrc32.reflect = false) := by
  decide +kernel

theorem witness_CrcReflectedUpdateShiftsRightEightTimes :
    (State.reset.opPort = .consumer ∧ State.reset.cfg.fcrcBytes = .four ∧ State.reset.cfg.fcrc32.reflect = true ∧
      State.reset.cfg = Config.hw ∧ State.reset.crcfReg = 0xFFFFFFFF) ∧
    ((State.resetWith { mirrored with fcrcBytes := .one }).cfg.fcrcBytes = .one ∧
      (State.resetWith { mirrored with fcrcBytes := .one }).cfg.fcrc8.reflect = true) ∧
    (State.resetWith mirrored).cfg.hcrc.reflect = true ∧ 8 ≤ 8 := by decide +kernel

theorem witness_CrcFinalizeReturnsAndKeepsTheRegister :
    State.reset.opPort = .consumer ∧ State.reset.cfg.fcrcBytes = .four ∧ (State.resetWith small).opPort = .consumer ∧
    (State.resetWith small).cfg.fcrcBytes = .one := by decide +kernel

theorem witness_CrcUnitComputesTheCrcFunction : State.reset.opPort = .consumer := by decide

theorem witness_SingleBitErrorChangesTheChecksum : 0 < 8 ∧ 7 < 8 := by decide

theorem witness_OneByteFullChecksumIgnoresTheHeader :
    small.fcrcBytes = .one ∧ small.fcrc8 = Config.hcrcAlg ∧ small.hcrc = Config.hcrcAlg ∧ usedPayload p7f = [0x00, 0x7F] := by
  decide +kernel

theorem witness_PushStoresOrDropsTheByte :
    producing.opPort = .producer ∧ State.reset.opPort = .consumer ∧
    (fifo [] 255 0).posIn + 1 = (fifo [] 255 0).posOut ∧ (fifo [] 255 1).posIn + 1 ≠ (fifo [] 255 1).posOut := by decide

theorem witness_PopReturnsTheOldestByteOrNone :
    (fifo [] 255 255).opPort = .consumer ∧ (fifo [] 255 255).posIn = (fifo [] 255 255).posOut ∧
    (fifo [(255, 0x07)] 0 255).posIn ≠ (fifo [(255, 0x07)] 0 255).posOut ∧
    (fifo [] 255 255).popQ1.qPhase = .popRead 255 ∧ (255 : Byte) = (fifo [] 255 255).popQ1.posOut ∧
    (fifo [(255, 0x07)] 0 255).popQ1.qPhase = .popRead 0 ∧ (0 : Byte) ≠ (fifo [(255, 0x07)] 0 255).popQ1.posOut ∧
    (fifo [(255, 0x07)] 0 255).popQ1.microStep.qPhase = .popNonEmpty ∧
    (fifo [(255, 0x07)] 0 255).popQ1.microStep.microStep.qPhase = .popHave 0x07 := by decide +kernel

theorem witness_AvailableReturnsTheCount :
    (fifo [] 2 250).opPort = .consumer ∧ (fifo [] 2 250).availableQ1.qPhase = .availRead 2 := by decide

theorem witness_PushFailsExactlyWhen255BytesAreHeld :
    producing.opPort = .producer ∧ (fifo [] 249 250).contents.length = 255 ∧ (fifo [] 248 250).contents.length ≠ 255 := by
  refine ⟨rfl, ?_, ?_⟩ <;> simp [State.contents, State.held, fifo, fifoCount]

theorem witness_FifoIsAQueueOfTheBytesHeld :
    (let s := { fifo [] 248 250 with opPort := .producer };
      s.opPort = .producer ∧ s.contents.length < 255 ∧ ∃ t, exec (.fifoPush 0x41) s = .next t) ∧
    (let s := fifo [(255, 0x07)] 0 255;
      s.opPort = .consumer ∧ s.contents = 0x07 :: [] ∧ ∃ t, exec .fifoPop s = .next t) := by
  refine ⟨⟨rfl, ?_, _, rfl⟩, rfl, by decide +kernel, _, rfl⟩
  simp [State.contents, State.held, fifo, fifoCount]

theorem witness_FifoReturnsThePushedBytesInOrder :
    (∀ i ∈ [Instr.fifoPush 0x41, .fifoAvailable, .fifoPop], i = .fifoPop ∨ i = .fifoAvailable ∨ ∃ d, i = .fifoPush d) ∧
    ∃ t, runAdmitted [.fifoPush 0x41, .fifoAvailable, .fifoPop] State.reset = .next t := by
  exact ⟨by simp, _, rfl⟩

theorem witness_MicroSteppedFifoOperationsAreWholeAtOneInstant :
    ((fifo [(5, 0x99)] 6 5).qPhase = .idle ∧ (fifo [(5, 0x99)] 6 5).posIn ≠ (fifo [(5, 0x99)] 6 5).posOut) ∧
    ((fifo [] 5 5).qPhase = .idle ∧ (fifo [] 5 5).posIn = (fifo [] 5 5).posOut) := by decide

theorem witness_WireOffsetsFollowTheGeneration :
    Config.hw.markers = true ∧ Config.hw.hasSrc = true ∧ Config.hw.hasCmd = true ∧ 3 < t1.payloadLen.toNat ∧
    3 < Config.hw.fcrcBytes.toNat ∧ 0 < small.fcrcBytes.toNat := by decide

theorem witness_MicroTurnTakesQ1AndGoesOn :
    (∀ w : Half, ({ qWaits w with turns := [.consumerMicro] } : State).turns = .consumerMicro :: [] ∧
      (qWaits w).txBusy = false ∧ (qWaits w).qPhase = .idle ∧
      (qWaits w).qReqs = { word := w, bundle := Bundle.blank } :: []) ∧
    decode 0x3200 = .ok .fifoPop ∧ decode 0x3300 = .ok .fifoAvailable ∧ decode 0x1000 = .ok .crchReset ∧
    ({ (fifo [] 5 5).popQ1 with turns := [.consumer] } : State).turns = .consumer :: [] ∧
    (fifo [] 5 5).popQ1.txBusy = false ∧ (fifo [] 5 5).popQ1.qPhase ≠ .idle :=
  ⟨fun _ => ⟨rfl, rfl, rfl, rfl⟩, by decide, by decide, by decide, rfl, rfl, by decide⟩

theorem witness_MarkerMismatchReturnsToPositionZero :
    State.reset.opPort = .consumer ∧ State.reset.cfg.markers = true ∧ State.reset.cfg = Config.hw ∧ State.reset.inLen = 0 ∧
    (0x55 : Byte) ≠ State.reset.cfg.start0 ∧ (0xAA : Byte) = State.reset.cfg.start0 ∧ (receiving 1 x1).inLen = 1 ∧
    (0xAA : Byte) ≠ (receiving 1 x1).cfg.start1 ∧ (0x55 : Byte) = (receiving 1 x1).cfg.start1 := by decide +kernel

theorem witness_HeaderByteIsStoredIntoItsField :
    ∀ i ∈ [2, 3, 4, 5, 6, 7, 8], let s := receiving (BitVec.ofNat 16 i) x1;
      s.opPort = .consumer ∧ s.inLen.toNat < hcrcAt s.cfg ∧ srcAt s.cfg ≤ s.inLen.toNat ∧ s.cfg.hasSrc = true ∧
      s.cfg.hasCmd = true ∧ (s.inLen.toNat = srcAt s.cfg ∨ s.inLen.toNat = srcAt s.cfg + 1 ∨ s.inLen.toNat = dstAt s.cfg ∨
        s.inLen.toNat = dstAt s.cfg + 1 ∨ s.inLen.toNat = cmdAt s.cfg ∨ s.inLen.toNat = cmdAt s.cfg + 1 ∨
        s.inLen.toNat = lenAt s.cfg) := by decide +kernel

theorem witness_HeaderChecksumIsCheckedAtItsPosition :
    let s := receiving 9 x1
    s.opPort = .consumer ∧ s.inLen.toNat = hcrcAt s.cfg ∧ crcOf s.cfg.hcrc (headerBytes s.cfg s.rx) ≠ 0x61 ∧
    crcOf s.cfg.hcrc (headerBytes s.cfg s.rx) = 0x9E := by decide +kernel

theorem witness_PayloadByteIsStoredAtItsOffset :
    (headerSize Config.hw ≤ (receiving 10 t1).inLen.toNat ∧
      (receiving 10 t1).inLen.toNat < headerSize Config.hw + t1.payloadLen.toNat ∧ (receiving 10 t1).opPort = .consumer) ∧
    (headerSize Config.hw ≤ (receiving 13 t1).inLen.toNat ∧
      (receiving 13 t1).inLen.toNat < headerSize Config.hw + t1.payloadLen.toNat ∧ (receiving 13 t1).rx = t1) := by
  decide

theorem witness_ChecksumByteIsStoredIntoItsLane :
    (∀ k ∈ [0, 3], let s := receiving (BitVec.ofNat 16 (10 + k)) x1;
      s.opPort = .consumer ∧ k < s.cfg.fcrcBytes.toNat ∧
      s.inLen.toNat = headerSize s.cfg + s.rx.payloadLen.toNat + k) ∧
    (let s := { State.resetWith small with inLen := 259, rx := { p7f with payloadLen := 255 } };
      s.opPort = .consumer ∧ 0 < s.cfg.fcrcBytes.toNat ∧
      s.inLen.toNat = headerSize s.cfg + s.rx.payloadLen.toNat + 0 ∧ s.cfg.fcrcBytes = .one) ∧
    (receiving 10 x1).cfg.fcrcBytes = .four := by decide +kernel

theorem witness_LastByteReturnsTheFrame :
    (let s := receiving 13 x1;
      s.opPort = .consumer ∧ headerSize s.cfg ≤ s.inLen.toNat ∧ s.inLen.toNat + 1 = wireLength s.cfg s.rx.payloadLen) ∧
    (let s := receiving 268 { x1 with payloadLen := 255 };
      s.opPort = .consumer ∧ headerSize s.cfg ≤ s.inLen.toNat ∧ s.inLen.toNat + 1 = wireLength s.cfg s.rx.payloadLen) := by
  decide +kernel

/-- A state in the middle of a frame, with a byte in the FIFO, meets the invariant. -/
theorem midFrame_inv : midFrame.Inv where
  ring_wf := by decide
  slots_written := by decide +kernel
  rx_wf := by decide +kernel
  rx_position := by decide +kernel
  rx_header := by decide +kernel
  crcf_width := by decide +kernel
  tx_clear := by decide
  tx_progress := by decide
  phase_ok := trivial

/-- A state in the middle of a send meets the invariant, whatever the sink is to answer. -/
theorem sending_inv (answers : List SinkAnswer) : (sending answers).Inv :=
  have h : (sending []).Inv :=
    { ring_wf := by decide
      slots_written := by decide +kernel
      rx_wf := by decide
      rx_position := by decide
      rx_header := by decide +kernel
      crcf_width := by decide +kernel
      tx_clear := by decide
      tx_progress := by decide
      phase_ok := trivial }
  { ring_wf := h.ring_wf, slots_written := h.slots_written, rx_wf := h.rx_wf, rx_position := h.rx_position,
    rx_header := h.rx_header, crcf_width := h.crcf_width, tx_clear := h.tx_clear, tx_progress := h.tx_progress,
    phase_ok := h.phase_ok }

/-- A state in the middle of a POP taken in micro-steps meets the invariant. -/
theorem popping_inv : ({ midFrame with qPhase := .popHave 0x07 } : State).Inv where
  ring_wf := by decide
  slots_written := by decide +kernel
  rx_wf := by decide +kernel
  rx_position := by decide +kernel
  rx_header := by decide +kernel
  crcf_width := by decide +kernel
  tx_clear := by decide
  tx_progress := by decide
  phase_ok := ⟨by decide, by decide⟩

theorem witness_HandleByteCompletesAndReturnsAFrameOnlyAtTheEnd : midFrame.Inv ∧ midFrame.opPort = .consumer :=
  ⟨midFrame_inv, rfl⟩

theorem witness_ReturnedFrameIsTheReceivedOne :
    midFrame.Inv ∧ midFrame.opPort = .consumer ∧ ∃ t, exec (.rxHandleByte 0xBC) midFrame = .next t ∧
      t.qOut = midFrame.qOut ++ [.frameOpt (some x1)] :=
  ⟨midFrame_inv, rfl, _, rfl, by decide +kernel⟩

theorem witness_OldHeaderFieldsNeverReachAResult : State.reset.opPort = .consumer ∧ State.reset.inLen = 0 := by decide

theorem witness_RxResetClearsOnlyThePosition : State.reset.opPort = .consumer ∧ State.reset.inLen = 0 := by decide

theorem witness_SerializedFrameIsParsedBack :
    State.reset.opPort = .consumer ∧ State.reset.inLen = 0 ∧ (State.resetWith small).opPort = .consumer ∧
    (State.resetWith small).inLen = 0 := by decide

theorem witness_ChecksumGuardPassesMatchingFrames :
    let f := { x1 with fCrc := 0xBC3C2027 }
    (serving t1 none).opPort = .consumer ∧ (serving t1 none).bundle.frameOpt = none ∧
    (serving t1 (some x1)).bundle.frameOpt = some x1 ∧
    fcrcOf Config.hw (coveredBytes Config.hw x1) = x1.fCrc &&& Config.hw.fcrcBytes.mask ∧
    (serving t1 (some f)).bundle.frameOpt = some f ∧
    fcrcOf Config.hw (coveredBytes Config.hw f) ≠ f.fCrc &&& Config.hw.fcrcBytes.mask := by decide +kernel

theorem witness_AddressGuardPassesExactlyItsAddress :
    (serving t1 none).opPort = .consumer ∧ (serving t1 none).bundle.frameOpt = none ∧
    (serving t1 (some x1)).bundle.frameOpt = some x1 ∧ x1.dst = (serving t1 (some x1)).bundle.addr ∧
    (serving t1 (some t1)).bundle.frameOpt = some t1 ∧ t1.dst ≠ (serving t1 (some t1)).bundle.addr := by decide

theorem witness_GuardsCommute :
    (fcrcMatches Config.hw x1 = true ∧ x1.dst = 0x0010) ∧ ¬ (fcrcMatches Config.hw t1 = true ∧ t1.dst = 0x0001) := by
  decide +kernel

theorem witness_UpdateCrcStoresBothChecksums : (serving t1 none).opPort = .consumer := by decide

theorem witness_SingleBitErrorNeverPassesThePipeline :
    State.reset.opPort = .consumer ∧ State.reset.inLen = 0 ∧ State.reset.cfg = Config.hw ∧ 7 < 8 ∧
    ∀ j ∈ [0, 1, 2, 9, 10, 17], j < wireLength Config.hw t1.payloadLen ∧ (j < 2 ∨ 2 ≤ j ∧ j < 10 ∨ 10 ≤ j) := by
  decide +kernel

theorem witness_SendIssueHoldsTheWireBytes :
    (serving t1 none).opPort = .consumer ∧ (∃ t, exec .txSend (serving t1 none) = .next t) ∧
    (serving t1 none).cfg = Config.hw := ⟨rfl, ⟨_, rfl⟩, rfl⟩

theorem witness_SendAttemptFollowsTheSinksAnswer :
    ∀ answers ∈ [[SinkAnswer.accept], [.retry, .accept], [.error 7], []],
      (sending answers).txBytes[(sending answers).txIdx.toNat]? = some 0x55 ∧
      ((sending answers).sinkIn = .accept :: [] ∨ (sending answers).sinkIn = .retry :: [.accept] ∨
        (sending answers).sinkIn = .error 7 :: [] ∨ (sending answers).sinkIn = []) := by decide

theorem witness_SendCompletesWhenAllBytesAreAccepted :
    let s := { sending [] with txIdx := 2 }
    s.txIdx.toNat = s.txBytes.length := by decide

theorem witness_SinkTakesThePrefixSentSoFar :
    ∀ a : SinkAnswer, let s := sending [a];
      s.Inv ∧ s.txBusy = true ∧ s.wire = [] ++ s.txBytes.take s.txIdx.toNat :=
  fun a => ⟨sending_inv [a], rfl, rfl⟩

theorem witness_SendToAnAcceptingSinkPutsTheFrameOnTheWire :
    let s := { serving x1 none with sinkIn := List.replicate 14 .accept ++ [.retry] }
    s.opPort = .consumer ∧ (∃ t, exec .txSend s = .next t) ∧
    s.sinkIn = List.replicate (wireLength s.cfg s.bundle.frame.payloadLen) .accept ++ [.retry] :=
  ⟨rfl, ⟨_, rfl⟩, rfl⟩

theorem witness_RetryingSinkKeepsTheSendWaiting :
    let s := sending (List.replicate 3 .retry ++ [.accept])
    s.Inv ∧ s.txBusy = true ∧ s.txIdx.toNat < s.txBytes.length ∧ s.sinkIn = List.replicate 3 .retry ++ [.accept] :=
  ⟨sending_inv _, rfl, by decide, rfl⟩

theorem witness_SendHoldsTheConsumerPortOnly :
    (∃ t, step (sending [.accept]) = .next t) ∧ (sending [.accept]).txBusy = true ∧
    (sending [.accept]).nextTurn.1 = some .consumer ∧
    ({ sending [.accept] with turns := [.consumerMicro] } : State).nextTurn.1 = some .consumerMicro ∧
    (let s := { sending [.accept] with turns := [.producer], pReqs := (pWaits 0x315A).pReqs };
      s.txBusy = true ∧ s.nextTurn.1 = some .producer ∧ ∃ t, step s = .next t) :=
  ⟨⟨_, rfl⟩, rfl, rfl, rfl, rfl, rfl, ⟨_, rfl⟩⟩

theorem witness_BlockResetLeavesTheSpecsValues : small.fcrcBytes = .one ∧ small.fcrc8 = Config.hcrcAlg := by decide

theorem witness_EveryStepKeepsTheInvariant :
    (midFrame.Inv ∧ ∃ t, step midFrame = .next t) ∧
    ((sending [.accept]).Inv ∧ ∃ t, step (sending [.accept]) = .next t) ∧
    (let s : State := { midFrame with qPhase := .popHave 0x07 };
      s.Inv ∧ ∃ t, step s = .next t) :=
  ⟨⟨midFrame_inv, _, rfl⟩, ⟨sending_inv _, _, rfl⟩, popping_inv, _, rfl⟩

theorem witness_NoStepChangesTheConfiguration : ∃ t, step (qWaits 0x3200) = .next t := ⟨_, rfl⟩

theorem witness_EachAgentWritesOnlyItsOwnElements :
    ((pWaits 0x3141).nextTurn.1 = some .producer ∧ ∃ t, step (pWaits 0x3141) = .next t) ∧
    ((qWaits 0x3200).nextTurn.1 ≠ some .producer ∧ ∃ t, step (qWaits 0x3200) = .next t) :=
  ⟨⟨rfl, _, rfl⟩, by decide, _, rfl⟩

theorem witness_GhostRecordIsNeverRead : ∃ t, step (pWaits 0x3141) = .next t := ⟨_, rfl⟩

theorem witness_CrcOperationsFrame :
    (∃ t, exec .crchReset State.reset = .next t) ∧ (∃ t, exec (.crchUpdate 0xAA) State.reset = .next t) ∧
    (∃ t, exec .crcfReset State.reset = .next t) ∧ ∃ t, exec (.crcfUpdate 0x31) State.reset = .next t :=
  ⟨⟨_, rfl⟩, ⟨_, rfl⟩, ⟨_, rfl⟩, _, rfl⟩

theorem witness_FifoOperationsFrame :
    (∃ t, exec (.fifoPush 0x41) producing = .next t) ∧ ∃ t, exec .fifoPop (fifo [(255, 0x07)] 0 255) = .next t :=
  ⟨⟨_, rfl⟩, _, rfl⟩

theorem witness_ReceiveOperationsFrame :
    (∃ t, exec (.rxHandleByte 0x00) (receiving 10 t1) = .next t) ∧
    ((receiving 9 t1).inLen.toNat < headerSize (receiving 9 t1).cfg) ∧
    (headerSize (receiving 14 t1).cfg + t1.payloadLen.toNat ≤ (receiving 14 t1).inLen.toNat) ∧
    ∃ t, exec .rxReset (receiving 10 t1) = .next t :=
  ⟨⟨_, rfl⟩, by decide, by decide, _, rfl⟩

theorem witness_ReadingOperationsChangeNothingAndRepeat :
    ∀ i ∈ [Instr.crchFinalize, .crcfFinalize, .fifoAvailable, .guardCrc, .guardAddr, .frameUpdateCrc],
      ∃ t u, exec i (serving t1 (some x1)) = .next t ∧ exec i t = .next u :=
  fun i _ => ⟨_, _, exec_eq_checkPort i _, exec_eq_checkPort i _⟩

theorem witness_SendIssueFrame : ∃ t, exec .txSend (serving t1 none) = .next t := ⟨_, rfl⟩

end Sys2Proof.Tests
end

section
/-! The build-time configuration (10_state.md R24): no named update of the state writes it, so no operation, no served
request and no step does. -/

namespace Sys2Proof.Machine

/-! ### The updates of the state -/

@[simp] theorem reply_cfg (s : State) (p : Port) (r : Result) (c : OutcomeCode) : (s.reply p r c).cfg = s.cfg := by
  cases p <;> rfl

@[simp] theorem portViolation_cfg (s : State) (i : Instr) : (s.portViolation i).cfg = s.cfg := by
  simp [State.portViolation]

@[simp] theorem illegalOp_cfg (s : State) (p : Port) (w : Half) : (s.illegalOp p w).cfg = s.cfg := by
  simp [State.illegalOp]

@[simp] theorem push_cfg (s : State) (d : Byte) : (s.push d).cfg = s.cfg := by
  unfold State.push
  split <;> simp

@[simp] theorem pop_cfg (s : State) : s.pop.cfg = s.cfg := by
  unfold State.pop
  split <;> simp

@[simp] theorem handleByte_cfg (s : State) (d : Byte) : (s.handleByte d).cfg = s.cfg := by
  simp [State.handleByte]

@[simp] theorem microStep_cfg (s : State) : s.microStep.cfg = s.cfg := by
  unfold State.microStep
  split
  case h_2 => split <;> simp
  all_goals simp

@[simp] theorem sendAnswered_cfg (s : State) (b : Byte) (a : SinkAnswer) : (s.sendAnswered b a).cfg = s.cfg := by
  cases a <;> simp [State.sendAnswered]

@[simp] theorem sendStep_cfg (s : State) : s.sendStep.cfg = s.cfg := by
  obtain ⟨b, a, sinkIn, ix, -, hs⟩ | ⟨-, hs⟩ := sendStep_cases s <;> simp [hs]

@[simp] theorem nextTurn_cfg (s : State) : s.nextTurn.2.cfg = s.cfg := by
  obtain ⟨turns, ix, hs⟩ := nextTurn_state s
  rw [hs]

/-! ### Operations, requests and steps -/

@[simp] theorem effect_cfg (s : State) (i : Instr) : (effect s i).cfg = s.cfg := by
  cases i <;> simp [effect]

theorem exec_cfg {i : Instr} {s t : State} (h : exec i s = .next t) : t.cfg = s.cfg := by
  obtain ⟨-, rfl⟩ | ⟨-, rfl⟩ := exec_cases h
  · exact effect_cfg s i
  · exact portViolation_cfg s i

theorem serve_cfg {s t : State} {p : Port} {r : Request} (h : s.serve p r = .next t) : t.cfg = s.cfg := by
  obtain rfl | ⟨i, -, hexec⟩ := serve_cases h
  · exact illegalOp_cfg s p r.word
  · exact (exec_cfg hexec :)

theorem serveMicro_cfg {s t : State} {r : Request} (h : s.serveMicro r = .next t) : t.cfg = s.cfg := by
  obtain rfl | rfl | hserve := serveMicro_cases h
  · simp
  · simp
  · exact serve_cfg hserve

theorem producerStep_cfg {s t : State} (h : s.producerStep = .next t) : t.cfg = s.cfg := by
  obtain ⟨-, rfl⟩ | ⟨r, rest, -, hserve⟩ := producerStep_cases h
  · rfl
  · exact (serve_cfg hserve :)

/-- A consumer step keeps the configuration when the way it serves a request does. -/
theorem consumerStepBy_cfg {s t : State} {serve : State → Request → Host.Outcome State Fault Refusal}
    (hserve : ∀ {u v : State} {r : Request}, serve u r = .next v → v.cfg = u.cfg)
    (h : s.consumerStepBy serve = .next t) : t.cfg = s.cfg := by
  obtain ⟨-, rfl⟩ | ⟨-, -, rfl⟩ | ⟨-, -, -, rfl⟩ | ⟨-, -, r, rest, -, hr⟩ := consumerStepBy_cases h
  · exact sendStep_cfg s
  · exact microStep_cfg s
  · rfl
  · exact (hserve hr :)

theorem step_cfg {s t : State} (h : step s = .next t) : t.cfg = s.cfg := by
  obtain ⟨-, rfl⟩ | ⟨-, hp⟩ | ⟨-, hq⟩ | ⟨-, hq⟩ := step_cases h
  · rfl
  · exact (producerStep_cfg hp).trans (nextTurn_cfg s)
  · exact (consumerStepBy_cfg serve_cfg hq).trans (nextTurn_cfg s)
  · exact (consumerStepBy_cfg serveMicro_cfg hq).trans (nextTurn_cfg s)

/-- Settles O53, by the cases of a step. -/
theorem noStepChangesTheConfiguration : Obligations.NoStepChangesTheConfiguration := fun _ _ => step_cfg

end Sys2Proof.Machine
end

section
/-! The wire frame by position (30_encoding.md R81, R84, R85): the lengths of its parts, and the byte at each field's
offset. A field is found by writing the sequence as what stands before it, the field, and what stands after it; its
offset is then the length of the first part. -/

namespace Sys2Proof.Machine

/-! ### Lengths -/

@[simp] theorem length_bytesIf (present : Bool) (bytes : List Byte) :
    (bytesIf present bytes).length = sizeIf present bytes.length := by
  cases present <;> rfl

@[simp] theorem length_leBytes {w : Nat} (v : BitVec w) (n : Nat) : (leBytes v n).length = n := by
  simp [leBytes]

@[simp] theorem length_leField {w : Nat} (v : BitVec w) : (leField v).length = fieldBytes w := length_leBytes v _

@[simp] theorem length_usedPayload (f : Frame) : (usedPayload f).length = f.payloadLen.toNat := by
  simp [usedPayload]

@[simp] theorem length_headerBytes (c : Config) (f : Frame) : (headerBytes c f).length = hcrcAt c := by
  simp only [headerBytes, hcrcAt, lenAt, cmdAt, dstAt, srcAt, List.length_append, length_bytesIf, length_leField,
    List.length_cons, List.length_nil]

@[simp] theorem length_coveredBytes (c : Config) (f : Frame) :
    (coveredBytes c f).length = headerSize c + f.payloadLen.toNat := by
  simp [coveredBytes, headerSize, Nat.add_assoc, Nat.add_comm 1]

@[simp] theorem length_wireBytes (c : Config) (f : Frame) :
    (wireBytes c f).length = wireLength c f.payloadLen := by
  simp [wireBytes, wireLength]

/-- A part that is present or not takes its size or nothing, as R81 writes it. -/
theorem sizeIf_eq_mul (present : Bool) (size : Nat) : sizeIf present size = size * present.toNat := by
  cases present <;> simp [sizeIf]

/-! ### Fields of the header -/

/-- The two bytes of a 16-bit field, at the offset that is the length of what stands before it. -/
theorem getElem?_leField_half {bytes pre post : List Byte} {n : Nat} (v : BitVec 16)
    (hbytes : bytes = pre ++ leField v ++ post) (hn : pre.length = n) :
    bytes[n]? = some (v.extractLsb' 0 8) ∧ bytes[n + 1]? = some (v.extractLsb' 8 8) := by
  subst hbytes hn
  simp

section
variable (c : Config) (f : Frame)

theorem headerBytes_markers (h : c.markers = true) :
    (headerBytes c f)[0]? = some c.start0 ∧ (headerBytes c f)[1]? = some c.start1 := by
  simp [headerBytes, bytesIf, h]

theorem headerBytes_src (h : c.hasSrc = true) :
    (headerBytes c f)[srcAt c]? = some (f.src.extractLsb' 0 8) ∧
    (headerBytes c f)[srcAt c + 1]? = some (f.src.extractLsb' 8 8) :=
  getElem?_leField_half f.src (pre := bytesIf c.markers [c.start0, c.start1])
    (post := leField f.dst ++ bytesIf c.hasCmd (leField f.cmd) ++ leField f.payloadLen)
    (by simp [headerBytes, bytesIf, h]) (by simp [srcAt])

theorem headerBytes_dst :
    (headerBytes c f)[dstAt c]? = some (f.dst.extractLsb' 0 8) ∧
    (headerBytes c f)[dstAt c + 1]? = some (f.dst.extractLsb' 8 8) :=
  getElem?_leField_half f.dst (pre := bytesIf c.markers [c.start0, c.start1] ++ bytesIf c.hasSrc (leField f.src))
    (post := bytesIf c.hasCmd (leField f.cmd) ++ leField f.payloadLen)
    (by simp [headerBytes]) (by simp [dstAt, srcAt, fieldBytes])

theorem headerBytes_cmd (h : c.hasCmd = true) :
    (headerBytes c f)[cmdAt c]? = some (f.cmd.extractLsb' 0 8) ∧
    (headerBytes c f)[cmdAt c + 1]? = some (f.cmd.extractLsb' 8 8) :=
  getElem?_leField_half f.cmd
    (pre := bytesIf c.markers [c.start0, c.start1] ++ bytesIf c.hasSrc (leField f.src) ++ leField f.dst)
    (post := leField f.payloadLen)
    (by simp [headerBytes, bytesIf, h]) (by simp [cmdAt, dstAt, srcAt, fieldBytes, Nat.add_assoc])

/-- `LEN` is the last byte of the header fields. -/
theorem headerBytes_len : (headerBytes c f)[lenAt c]? = some f.payloadLen := by
  have hpre : (bytesIf c.markers [c.start0, c.start1] ++ bytesIf c.hasSrc (leField f.src) ++ leField f.dst ++
      bytesIf c.hasCmd (leField f.cmd)).length = lenAt c := by
    simp only [lenAt, cmdAt, dstAt, srcAt, List.length_append, length_bytesIf, length_leField, List.length_cons,
      List.length_nil]
  rw [headerBytes, leField_byte, ← hpre, List.getElem?_concat_length]

/-! ### Regions of the wire frame -/

variable {c f} in
/-- The wire frame begins with the header fields. -/
theorem wireBytes_of_headerBytes {i : Nat} {b : Byte} (h : (headerBytes c f)[i]? = some b) :
    (wireBytes c f)[i]? = some b := by
  obtain ⟨hi, -⟩ := List.getElem?_eq_some_iff.1 h
  rw [wireBytes, coveredBytes, List.append_assoc, List.append_assoc, List.getElem?_append_left hi, h]

theorem wireBytes_hCrc : (wireBytes c f)[hcrcAt c]? = some f.hCrc := by
  rw [← length_headerBytes c f]
  simp [wireBytes, coveredBytes]

theorem wireBytes_payload {j : Nat} (hj : j < f.payloadLen.toNat) :
    (wireBytes c f)[headerSize c + j]? = some (f.payload.load .rxpay j) := by
  have hpre : (headerBytes c f ++ [f.hCrc]).length = headerSize c := by simp [headerSize]
  rw [wireBytes, coveredBytes, List.append_assoc, ← hpre, List.getElem?_append_right (Nat.le_add_right _ _),
    Nat.add_sub_cancel_left, List.getElem?_append_left (by simpa using hj)]
  simp [usedPayload, payloadByte, hj]

theorem wireBytes_fCrc {k : Nat} (hk : k < c.fcrcBytes.toNat) :
    (wireBytes c f)[headerSize c + f.payloadLen.toNat + k]? = some (f.fCrc.extractLsb' (8 * k) 8) := by
  rw [wireBytes, ← length_coveredBytes, List.getElem?_append_right (Nat.le_add_right _ _), Nat.add_sub_cancel_left]
  simp [leBytes, byteLane, hk]

end

/-! ### The offsets of a generation -/

/-- R81's offsets and R8's sizes, a field that is absent taking no bytes. -/
theorem wire_offsets (c : Config) :
    srcAt c = 2 * c.markers.toNat ∧ dstAt c = srcAt c + 2 * c.hasSrc.toNat ∧ cmdAt c = dstAt c + 2 ∧
    lenAt c = cmdAt c + 2 * c.hasCmd.toNat ∧ hcrcAt c = lenAt c + 1 ∧ headerSize c = hcrcAt c + 1 ∧
    hcrcAt c = 2 * c.markers.toNat + 2 * c.hasSrc.toNat + 2 + 2 * c.hasCmd.toNat + 1 := by
  simp [srcAt, dstAt, cmdAt, lenAt, hcrcAt, headerSize, sizeIf_eq_mul, fieldBytes]

/-- `N(len)` of this hardware (R8). -/
theorem wireLength_hw (len : Byte) : wireLength Config.hw len = 14 + len.toNat := by
  have hsize : headerSize Config.hw = 10 := rfl
  have hfcrc : Config.hw.fcrcBytes.toNat = 4 := rfl
  rw [wireLength, hsize, hfcrc]
  omega

/-- Settles O26: the offsets, the lengths, and the byte at each offset, field by field. -/
theorem wireOffsetsFollowTheGeneration : Obligations.WireOffsetsFollowTheGeneration := by
  unfold Obligations.WireOffsetsFollowTheGeneration
  refine ⟨wire_offsets, fun c f => ⟨length_headerBytes c f, length_coveredBytes c f, length_wireBytes c f⟩,
    fun c f => ?_, rfl, rfl, wireLength_hw⟩
  refine ⟨fun h => ?markers, fun h => ?src, wireBytes_of_headerBytes (headerBytes_dst c f).1,
    wireBytes_of_headerBytes (headerBytes_dst c f).2, fun h => ?cmd, wireBytes_of_headerBytes (headerBytes_len c f),
    wireBytes_hCrc c f, fun j => wireBytes_payload c f, fun k => wireBytes_fCrc c f⟩
  case markers => exact (headerBytes_markers c f h).imp wireBytes_of_headerBytes wireBytes_of_headerBytes
  case src => exact (headerBytes_src c f h).imp wireBytes_of_headerBytes wireBytes_of_headerBytes
  case cmd => exact (headerBytes_cmd c f h).imp wireBytes_of_headerBytes wireBytes_of_headerBytes

end Sys2Proof.Machine
end

section
/-! What the CRC and FIFO operations leave unchanged of the block (10_state.md R22, R23, R25 to R27), and what either
agent's step leaves to the other (R20, 20_memory.md R55). An operation is its effect on its own port and a refusal on the
other, so a frame is shown of each of the two. -/

namespace Sys2Proof.Machine

/-! ### The FIFO operations by case -/

/-- What a PUSH can do (41_fifo.md R131). -/
theorem push_cases (s : State) (d : Byte) :
    (s.held = Config.fifoUsable ∧ s.push d = s.reply .producer (.pushed false) .fifoFull) ∨
    (s.held ≠ Config.fifoUsable ∧
      s.push d = ({ s with ring := s.ring.store s.posIn.toNat d, posIn := s.posIn + 1 } : State).reply .producer
        (.pushed true) .ok) := by
  unfold State.push
  split
  case isTrue hfull => exact .inl ⟨(fifoFull_iff_held s).1 hfull, rfl⟩
  case isFalse hfull => exact .inr ⟨mt (fifoFull_iff_held s).2 hfull, by rw [nextCursor_eq]⟩

/-- What a POP can do (R132). -/
theorem pop_cases (s : State) :
    (s.held = 0 ∧ s.pop = s.popNone) ∨ (0 < s.held ∧ s.pop = s.popEnd s.oldestByte) := by
  unfold State.pop
  split
  case isTrue hempty => exact .inl ⟨(fifoEmpty_iff_held s).1 hempty, rfl⟩
  case isFalse hempty => exact .inr ⟨Nat.pos_of_ne_zero (mt (fifoEmpty_iff_held s).2 hempty), rfl⟩

/-- Only FIFO.PUSH is admitted on the producer port (30_encoding.md R76). -/
theorem eq_fifoPush_of_port_producer {i : Instr} (h : i.port = .producer) : ∃ d, i = .fifoPush d := by
  cases i
  case fifoPush d => exact ⟨d, rfl⟩
  all_goals cases h

/-! ### Frames of the CRC and FIFO operations -/

section
variable {s t : State}

/-- Every byte of both spaces is kept where the two elements that hold them are. -/
theorem loads_eq_of_ring_of_rx (hring : t.ring = s.ring) (hrx : t.rx = s.rx) (a : Nat) :
    t.ring.load .ring a = s.ring.load .ring a ∧ t.rx.payload.load .rxpay a = s.rx.payload.load .rxpay a := by
  rw [hring, hrx]
  exact ⟨rfl, rfl⟩

/-- CRC_H.RESET and CRC_H.UPDATE write `S.crch_reg` alone. -/
theorem exec_crch_block {d : Byte} (h : exec .crchReset s = .next t ∨ exec (.crchUpdate d) s = .next t) :
    t.block = { s.block with crchReg := t.crchReg } := by
  obtain h | h := h <;> obtain ⟨-, rfl⟩ | ⟨-, rfl⟩ := exec_cases h
  case inl.inr | inr.inr => rw [← portViolation_block s]; rfl
  all_goals rfl

/-- CRC_F.RESET and CRC_F.UPDATE write `S.crcf_reg` alone. -/
theorem exec_crcf_block {d : Byte} (h : exec .crcfReset s = .next t ∨ exec (.crcfUpdate d) s = .next t) :
    t.block = { s.block with crcfReg := t.crcfReg } := by
  obtain h | h := h <;> obtain ⟨-, rfl⟩ | ⟨-, rfl⟩ := exec_cases h
  case inl.inr | inr.inr => rw [← portViolation_block s]; rfl
  all_goals rfl

end

/-- Settles O56, from the frame of each unit. -/
theorem crcOperationsFrame : Obligations.CrcOperationsFrame := by
  unfold Obligations.CrcOperationsFrame
  refine fun s t d => ⟨fun h => ?crch, fun h => ?crcf⟩
  case crch =>
    have hblock := exec_crch_block h
    exact ⟨hblock, h.elim exec_cfg exec_cfg,
      loads_eq_of_ring_of_rx (congrArg Block.ring hblock) (congrArg Block.rx hblock)⟩
  case crcf =>
    have hblock := exec_crcf_block h
    exact ⟨hblock, h.elim exec_cfg exec_cfg,
      loads_eq_of_ring_of_rx (congrArg Block.ring hblock) (congrArg Block.rx hblock)⟩

/-- What a step of agent P may do to the block and to agent Q (R20, R55). -/
abbrev ProducerFrame (s t : State) : Prop :=
  t.block = { s.block with ring := t.ring, posIn := t.posIn } ∧ t.qOut = s.qOut ∧ t.qReqs = s.qReqs ∧
  (∀ a, a ≠ s.posIn.toNat → t.ring.load .ring a = s.ring.load .ring a) ∧
  (t.posIn = s.posIn ∧ t.ring = s.ring ∨ t.posIn = s.posIn + 1)

/-- What a step of agent Q may do to agent P's elements and port, and to its own cursor (R20, R55). -/
abbrev ConsumerFrame (s t : State) : Prop :=
  t.ring = s.ring ∧ t.posIn = s.posIn ∧ t.pOut = s.pOut ∧ t.pReqs = s.pReqs ∧
  (t.posOut = s.posOut ∨ t.posOut = s.posOut + 1)

section
variable (s : State)

theorem reply_producerFrame (r : Result) (c : OutcomeCode) : ProducerFrame s (s.reply .producer r c) :=
  ⟨rfl, rfl, rfl, fun _ _ => rfl, .inl ⟨rfl, rfl⟩⟩

theorem refuse_producerFrame (r : Result) (c : OutcomeCode) : ProducerFrame s (s.refuse .producer r c) :=
  ⟨rfl, rfl, rfl, fun _ _ => rfl, .inl ⟨rfl, rfl⟩⟩

theorem push_producerFrame (d : Byte) : ProducerFrame s (s.push d) := by
  obtain ⟨-, hpush⟩ | ⟨-, hpush⟩ := push_cases s d <;> rw [hpush]
  · exact reply_producerFrame s _ _
  · exact ⟨rfl, rfl, rfl, fun a ha => Memory.load_store_other .ring s.ring d ha, .inr rfl⟩

theorem reply_consumerFrame (r : Result) (c : OutcomeCode) : ConsumerFrame s (s.reply .consumer r c) :=
  ⟨rfl, rfl, rfl, rfl, .inl rfl⟩

theorem refuse_consumerFrame (r : Result) (c : OutcomeCode) : ConsumerFrame s (s.refuse .consumer r c) :=
  ⟨rfl, rfl, rfl, rfl, .inl rfl⟩

theorem popEnd_consumerFrame (b : Byte) : ConsumerFrame s (s.popEnd b) :=
  ⟨rfl, rfl, rfl, rfl, .inr (nextCursor_eq s.posOut)⟩

theorem pop_consumerFrame : ConsumerFrame s s.pop := by
  obtain ⟨-, hpop⟩ | ⟨-, hpop⟩ := pop_cases s <;> rw [hpop]
  · exact reply_consumerFrame s _ _
  · exact popEnd_consumerFrame s _

theorem microStep_consumerFrame : ConsumerFrame s s.microStep := by
  unfold State.microStep
  split
  case h_2 p hp => split <;> exact ⟨rfl, rfl, rfl, rfl, .inl rfl⟩
  case h_4 b hb => exact ⟨rfl, rfl, rfl, rfl, .inr (nextCursor_eq s.posOut)⟩
  all_goals exact ⟨rfl, rfl, rfl, rfl, .inl rfl⟩

theorem sendStep_consumerFrame : ConsumerFrame s s.sendStep := by
  obtain ⟨b, a, sinkIn, ix, -, hsend⟩ | ⟨-, hsend⟩ := sendStep_cases s <;> rw [hsend]
  · cases a <;> exact ⟨rfl, rfl, rfl, rfl, .inl rfl⟩
  · exact ⟨rfl, rfl, rfl, rfl, .inl rfl⟩

/-- Every operation of the consumer port keeps agent P's elements. -/
theorem effect_consumerFrame {i : Instr} (h : i.port = .consumer) : ConsumerFrame s (effect s i) := by
  cases i
  case fifoPush => cases h
  case fifoPop => exact pop_consumerFrame s
  all_goals exact ⟨rfl, rfl, rfl, rfl, .inl rfl⟩

/-- POP writes `S.pos_out` alone. -/
theorem pop_block : s.pop.block = { s.block with posOut := s.pop.posOut } := by
  obtain ⟨-, hpop⟩ | ⟨-, hpop⟩ := pop_cases s <;> rw [hpop] <;> rfl

end

/-- Settles O57: a PUSH keeps to agent P's frame, a POP writes its cursor alone, a refusal writes nothing. -/
theorem fifoOperationsFrame : Obligations.FifoOperationsFrame := by
  unfold Obligations.FifoOperationsFrame
  refine fun s t d => ⟨fun h => ?push, fun h => ?pop⟩
  case push =>
    obtain ⟨-, rfl⟩ | ⟨-, rfl⟩ := exec_cases h
    · obtain ⟨hblock, -, -, hslots, -⟩ := push_producerFrame s d
      exact ⟨hblock, push_cfg s d, hslots, fun a => congrArg (·.rx.payload.load .rxpay a) hblock⟩
    · have hblock := portViolation_block s (.fifoPush d)
      have hloads := loads_eq_of_ring_of_rx (congrArg Block.ring hblock) (congrArg Block.rx hblock)
      exact ⟨by rw [← hblock]; rfl, portViolation_cfg s _, fun a _ => (hloads a).1, fun a => (hloads a).2⟩
  case pop =>
    have hblock : t.block = { s.block with posOut := t.posOut } := by
      obtain ⟨-, rfl⟩ | ⟨-, rfl⟩ := exec_cases h
      · exact pop_block s
      · rw [← portViolation_block s .fifoPop]; rfl
    exact ⟨hblock, exec_cfg h, loads_eq_of_ring_of_rx (congrArg Block.ring hblock) (congrArg Block.rx hblock)⟩

/-! ### Frames of the steps -/

section
variable {s t : State}

theorem producerStep_frame (h : s.producerStep = .next t) : ProducerFrame s t := by
  obtain ⟨-, rfl⟩ | ⟨r, rest, -, hserve⟩ := producerStep_cases h
  · exact ⟨rfl, rfl, rfl, fun _ _ => rfl, .inl ⟨rfl, rfl⟩⟩
  obtain rfl | ⟨i, -, hexec⟩ := serve_cases hserve
  · exact refuse_producerFrame { s with pReqs := rest } _ _
  obtain ⟨hport, rfl⟩ | ⟨-, rfl⟩ := exec_cases hexec
  · obtain ⟨d, rfl⟩ := eq_fifoPush_of_port_producer hport.symm
    exact push_producerFrame { s with pReqs := rest, opPort := .producer, bundle := r.bundle } d
  · exact refuse_producerFrame { s with pReqs := rest, opPort := .producer, bundle := r.bundle } _ _

theorem serve_consumerFrame {r : Request} (h : s.serve .consumer r = .next t) : ConsumerFrame s t := by
  obtain rfl | ⟨i, -, hexec⟩ := serve_cases h
  · exact refuse_consumerFrame s _ _
  obtain ⟨hport, rfl⟩ | ⟨-, rfl⟩ := exec_cases hexec
  · exact effect_consumerFrame { s with opPort := .consumer, bundle := r.bundle } hport.symm
  · exact refuse_consumerFrame { s with opPort := .consumer, bundle := r.bundle } _ _

theorem serveMicro_consumerFrame {r : Request} (h : s.serveMicro r = .next t) : ConsumerFrame s t := by
  obtain rfl | rfl | hserve := serveMicro_cases h
  · exact ⟨rfl, rfl, rfl, rfl, .inl rfl⟩
  · exact ⟨rfl, rfl, rfl, rfl, .inl rfl⟩
  · exact serve_consumerFrame hserve

/-- A consumer step keeps to agent Q's frame when the way it serves a request does. -/
theorem consumerStepBy_frame {serve : State → Request → Host.Outcome State Fault Refusal}
    (hserve : ∀ {u v : State} {r : Request}, serve u r = .next v → ConsumerFrame u v)
    (h : s.consumerStepBy serve = .next t) : ConsumerFrame s t := by
  obtain ⟨-, rfl⟩ | ⟨-, -, rfl⟩ | ⟨-, -, -, rfl⟩ | ⟨-, -, r, rest, -, hr⟩ := consumerStepBy_cases h
  · exact sendStep_consumerFrame s
  · exact microStep_consumerFrame s
  · exact ⟨rfl, rfl, rfl, rfl, .inl rfl⟩
  · exact (hserve hr :)

/-- A step on agent P's turn is a producer step. -/
theorem step_of_producer_turn (hturn : s.nextTurn.1 = some .producer) : step s = s.nextTurn.2.producerStep := by
  unfold step
  rw [hturn]
  rfl

theorem step_producerFrame (hturn : s.nextTurn.1 = some .producer) (h : step s = .next t) : ProducerFrame s t := by
  rw [step_of_producer_turn hturn] at h
  have hframe := producerStep_frame h
  obtain ⟨turns, ix, hs⟩ := nextTurn_state s
  rw [hs] at hframe
  exact hframe

theorem step_consumerFrame (hturn : s.nextTurn.1 ≠ some .producer) (h : step s = .next t) : ConsumerFrame s t := by
  obtain ⟨turns, ix, hs⟩ := nextTurn_state s
  obtain ⟨-, rfl⟩ | ⟨hside, -⟩ | ⟨-, hq⟩ | ⟨-, hq⟩ := step_cases h
  · exact ⟨rfl, rfl, rfl, rfl, .inl rfl⟩
  · exact absurd hside hturn
  · rw [hs] at hq
    exact (consumerStepBy_frame serve_consumerFrame hq :)
  · rw [hs] at hq
    exact (consumerStepBy_frame serveMicro_consumerFrame hq :)

end

/-- Settles O54, from the frame of each side's step. -/
theorem eachAgentWritesOnlyItsOwnElements : Obligations.EachAgentWritesOnlyItsOwnElements :=
  ⟨fun _ _ => step_producerFrame, fun _ _ => step_consumerFrame⟩

end Sys2Proof.Machine
end

section
/-! The invariant of the machine (Safety.lean) is kept by every step. It speaks of four groups of elements, the FIFO with
its micro-step, the parser, `S.crcf_reg`, and the serializer; an update of one group leaves what is said of the others. -/

namespace Sys2Proof.Machine

/-! ### The parser -/

/-- What the invariant says of the parser: `S.rx` is a frame, the position lies in it, and past its header the header
checksum holds. -/
structure RxOk (c : Config) (i : InLen) (rx : Frame) : Prop where
  wf : rx.wf c
  position : i.toNat < hcrcAt c ∨ i.toNat < wireLength c rx.payloadLen
  header : headerSize c ≤ i.toNat → rx.hCrc = crcOf c.hcrc (headerBytes c rx)

theorem hcrcAt_pos (c : Config) : 0 < hcrcAt c := Nat.succ_pos _

theorem hcrcAt_lt_wireLength (c : Config) (len : PayloadLen) : hcrcAt c < wireLength c len := by
  rw [wireLength, headerSize]
  omega

theorem fcrcBytes_toNat_le (n : FcrcBytes) : n.toNat ≤ 4 := by cases n <;> decide

/-- The longest wire frame of any generation has 269 bytes. -/
theorem wireLength_le (c : Config) (len : PayloadLen) : wireLength c len ≤ 269 := by
  obtain ⟨-, -, -, -, -, hsize, hhcrc⟩ := wire_offsets c
  have hlen := payloadLen_lt len
  have hfcrc := fcrcBytes_toNat_le c.fcrcBytes
  have hmarkers := c.markers.toNat_le
  have hsrc := c.hasSrc.toNat_le
  have hcmd := c.hasCmd.toNat_le
  rw [wireLength]
  omega

/-- What one byte can do to the parser (42_datalink_rx.md R162): a refused marker, a header field, the header checksum
refused or accepted, a payload byte, a byte of the trailing checksum. -/
theorem rxByte_cases (c : Config) (i : InLen) (rx : Frame) (d : Byte) :
    (c.markers = true ∧ (i.toNat = 0 ∧ d ≠ c.start0 ∨ i.toNat = 1 ∧ d ≠ c.start1) ∧
      rxByte c i rx d = rxAbort rx .markerMismatch) ∨
    (i.toNat < hcrcAt c ∧ rxByte c i rx d = rxAdvance c i (storeHeader c rx i.toNat d)) ∨
    (i.toNat = hcrcAt c ∧ crcOf c.hcrc (headerBytes c rx) ≠ d ∧ rxByte c i rx d = rxAbort rx .hcrcMismatch) ∨
    (i.toNat = hcrcAt c ∧ crcOf c.hcrc (headerBytes c rx) = d ∧ rxByte c i rx d = rxAdvance c i { rx with hCrc := d }) ∨
    (headerSize c ≤ i.toNat ∧ i.toNat < headerSize c + rx.payloadLen.toNat ∧
      rxByte c i rx d = rxAdvance c i { rx with payload := rx.payload.store (i.toNat - headerSize c) d }) ∨
    (headerSize c + rx.payloadLen.toNat ≤ i.toNat ∧
      rxByte c i rx d = rxAdvance c i (storeFcrc c rx (i.toNat - headerSize c - rx.payloadLen.toNat) d)) := by
  have hsize : headerSize c = hcrcAt c + 1 := rfl
  unfold rxByte
  split_ifs with hmark0 hmark1 hfield hhcrc hmismatch hpayload
  · simp only [Bool.and_eq_true, beq_iff_eq, bne_iff_ne] at hmark0
    exact .inl ⟨hmark0.1.1, .inl ⟨hmark0.1.2, hmark0.2⟩, rfl⟩
  · simp only [Bool.and_eq_true, beq_iff_eq, bne_iff_ne] at hmark1
    exact .inl ⟨hmark1.1.1, .inr ⟨hmark1.1.2, hmark1.2⟩, rfl⟩
  · exact .inr (.inl ⟨hfield, rfl⟩)
  · exact .inr (.inr (.inl ⟨hhcrc, hmismatch, rfl⟩))
  · exact .inr (.inr (.inr (.inl ⟨hhcrc, not_not.1 hmismatch, rfl⟩)))
  · exact .inr (.inr (.inr (.inr (.inl ⟨by omega, hpayload, rfl⟩))))
  · exact .inr (.inr (.inr (.inr (.inr ⟨by omega, rfl⟩))))

/-- A header byte stores neither the payload nor a checksum. -/
@[simp] theorem storeHeader_fields (c : Config) (rx : Frame) (i : Nat) (d : Byte) :
    (storeHeader c rx i d).payload = rx.payload ∧ (storeHeader c rx i d).hCrc = rx.hCrc ∧
    (storeHeader c rx i d).fCrc = rx.fCrc := by
  unfold storeHeader
  split_ifs <;> exact ⟨rfl, rfl, rfl⟩

section
variable {c : Config} {i : InLen} {rx : Frame}

/-- A parser at the start of a frame asks nothing of the header stored before. -/
theorem rxOk_zero (h : rx.wf c) : RxOk c 0 rx where
  wf := h
  position := .inl (hcrcAt_pos c)
  header := fun hsize => absurd hsize (Nat.not_succ_le_zero _)

/-- An accepted byte keeps the parser's part of the invariant: it stands within the frame, and once it ends the header the
checksum stored is the header's. -/
theorem rxAdvance_ok (hwf : rx.wf c) (hposition : i.toNat < wireLength c rx.payloadLen)
    (hheader : headerSize c ≤ i.toNat + 1 → rx.hCrc = crcOf c.hcrc (headerBytes c rx)) :
    RxOk c (rxAdvance c i rx).inLen (rxAdvance c i rx).rx := by
  have hnext : (i + 1).toNat = i.toNat + 1 := by
    have hlength := wireLength_le c rx.payloadLen
    rw [inLen_next_toNat, Nat.mod_eq_of_lt (by omega)]
  unfold rxAdvance
  split
  case isTrue => exact rxOk_zero hwf
  case isFalse hlast => exact ⟨hwf, .inr (lt_of_le_of_ne (hnext ▸ hposition) hlast), hnext ▸ hheader⟩

/-- The trailing checksum keeps its width (10_state.md R30). -/
theorem storeFcrc_wf (k : Nat) (d : Byte) (h : rx.wf c) : (storeFcrc c rx k d).wf c :=
  ⟨h.1, by simp only [storeFcrc, BitVec.and_assoc, BitVec.and_self]⟩

theorem rxByte_ok (d : Byte) (h : RxOk c i rx) : RxOk c (rxByte c i rx d).inLen (rxByte c i rx d).rx := by
  obtain ⟨hwf, hposition, hheader⟩ := h
  have hsize : headerSize c = hcrcAt c + 1 := rfl
  have hwithin : i.toNat < wireLength c rx.payloadLen :=
    hposition.elim (fun hi => hi.trans (hcrcAt_lt_wireLength c _)) id
  obtain ⟨-, -, hbyte⟩ | ⟨hi, hbyte⟩ | ⟨-, -, hbyte⟩ | ⟨hi, hcheck, hbyte⟩ | ⟨hi, hpayload, hbyte⟩ | ⟨hi, hbyte⟩ :=
    rxByte_cases c i rx d <;> rw [hbyte]
  case inl | inr.inr.inl => exact rxOk_zero hwf
  case inr.inl =>
    exact rxAdvance_ok (by simpa [Frame.wf] using hwf) (hi.trans (hcrcAt_lt_wireLength c _)) (fun hend => by omega)
  case inr.inr.inr.inl => exact rxAdvance_ok hwf hwithin fun _ => hcheck.symm
  case inr.inr.inr.inr.inl =>
    have hslot : i.toNat - headerSize c < rx.payloadLen.toNat := by omega
    exact rxAdvance_ok ⟨Memory.store_wf d hwf.1 (hslot.trans (payloadLen_lt _)), hwf.2⟩ hwithin fun _ => hheader hi
  case inr.inr.inr.inr.inr =>
    exact rxAdvance_ok (storeFcrc_wf _ d hwf) hwithin fun _ => hheader (by omega)

end

/-! ### Updates of the state -/

section
variable {s t : State}

/-- The invariant speaks of the block, the configuration and the micro-step only. -/
theorem inv_of_block_eq (h : s.Inv) (hblock : t.block = s.block) (hcfg : t.cfg = s.cfg) (hphase : t.qPhase = s.qPhase) :
    t.Inv := by
  cases s
  cases t
  simp only [State.block, Block.mk.injEq] at hblock hcfg hphase
  obtain ⟨rfl, rfl, rfl, rfl, rfl, rfl, rfl, rfl, rfl, rfl⟩ := hblock
  cases hcfg
  cases hphase
  obtain ⟨hring, hslots, hrx, hposition, hheader, hcrcf, hclear, hprogress, hok⟩ := h
  exact ⟨hring, hslots, hrx, hposition, hheader, hcrcf, hclear, hprogress, hok⟩

theorem reply_inv (p : Port) (r : Result) (c : OutcomeCode) (h : s.Inv) : (s.reply p r c).Inv :=
  inv_of_block_eq h (reply_block s p r c) (reply_cfg s p r c) (by cases p <;> rfl)

theorem refuse_inv (p : Port) (r : Result) (c : OutcomeCode) (h : s.Inv) : (s.refuse p r c).Inv :=
  reply_inv p r c (inv_of_block_eq h rfl rfl rfl)

/-- A parser update that keeps the parser's part keeps the whole. -/
theorem rx_inv (h : s.Inv) {i : InLen} {rx : Frame} (hrx : RxOk s.cfg i rx) :
    ({ s with inLen := i, rx := rx } : State).Inv :=
  { h with rx_wf := hrx.wf, rx_position := hrx.position, rx_header := hrx.header }

theorem handleByte_inv (d : Byte) (h : s.Inv) : (s.handleByte d).Inv := by
  unfold State.handleByte
  exact reply_inv _ _ _ (rx_inv h (rxByte_ok d ⟨h.rx_wf, h.rx_position, h.rx_header⟩))

theorem rxReset_inv (h : s.Inv) : ({ s with inLen := 0 } : State).Inv := rx_inv h (rxOk_zero h.rx_wf)

/-- The invariant says nothing of `S.crch_reg`. -/
theorem crch_inv (h : s.Inv) (r : Byte) : ({ s with crchReg := r } : State).Inv :=
  { h with phase_ok := h.phase_ok }

theorem crcf_inv (h : s.Inv) {r : Word} (hr : r &&& s.cfg.fcrcBytes.mask = r) : ({ s with crcfReg := r } : State).Inv :=
  { h with crcf_width := hr }

/-! ### The FIFO and its micro-steps -/

/-- Ending the micro-step in progress leaves nothing to say of it. -/
theorem idle_inv (h : s.Inv) : ({ s with qPhase := .idle } : State).Inv :=
  { h with tx_progress := fun hbusy => ⟨rfl, (h.tx_progress hbusy).2⟩, phase_ok := trivial }

/-- With no send in progress, a micro-step may be reached that agrees with the FIFO. -/
theorem phase_inv (h : s.Inv) (hbusy : s.txBusy = false) {q : QPhase} (hq : ({ s with qPhase := q } : State).PhaseOk) :
    ({ s with qPhase := q } : State).Inv :=
  { h with tx_progress := fun hbusy' => absurd (hbusy.symm.trans hbusy') Bool.false_ne_true, phase_ok := hq }

/-- The oldest byte held does not stand in the slot the next push writes. -/
theorem posOut_ne_posIn (hpos : 0 < s.held) : s.posOut.toNat ≠ s.posIn.toNat := by
  have hne := slotAt_ne_posIn hpos
  rwa [State.slotAt, Nat.add_zero, Nat.mod_eq_of_lt (cursor_lt s.posOut)] at hne

/-- A push adds a byte behind the ones a micro-step has seen. -/
theorem phaseOk_push (d : Byte) (hroom : s.held ≠ Config.fifoUsable) (h : s.PhaseOk) :
    ({ s with ring := s.ring.store s.posIn.toNat d, posIn := s.posIn + 1 } : State).PhaseOk := by
  have hheld := held_push (s.ring.store s.posIn.toNat d) hroom
  unfold State.PhaseOk at *
  simp only [hheld]
  split at h
  case h_1 => trivial
  case h_2 | h_5 => exact Nat.le_succ_of_le h
  case h_3 => exact Nat.succ_pos _
  case h_4 b hphase =>
    obtain ⟨hpos, hb⟩ := h
    refine ⟨Nat.succ_pos _, hb.trans ?_⟩
    exact (Memory.load_store_other .ring s.ring d (posOut_ne_posIn hpos)).symm

/-- A push stores behind the held bytes, so each of them stays where it is. -/
theorem push_inv (d : Byte) (h : s.Inv) : (s.push d).Inv := by
  obtain ⟨-, hpush⟩ | ⟨hroom, hpush⟩ := push_cases s d <;> rw [hpush]
  · exact reply_inv _ _ _ h
  refine reply_inv _ _ _ { h with
    ring_wf := Memory.store_wf d h.ring_wf (cursor_lt s.posIn)
    slots_written := fun j hj => ?slots
    phase_ok := phaseOk_push d hroom h.phase_ok }
  rw [held_push _ hroom] at hj
  change ((s.ring.store s.posIn.toNat d).read? (s.slotAt j)).isSome
  obtain hj | rfl := Nat.lt_succ_iff_lt_or_eq.1 hj
  · rw [Memory.read?_store_other _ _ (slotAt_ne_posIn hj)]
    exact h.slots_written j hj
  · rw [slotAt_held, Memory.read?_store_same]
    rfl

/-- A pop frees the slot of the oldest byte; the others move up by one. -/
theorem popEnd_inv (b : Byte) (h : s.Inv) (hidle : s.qPhase = .idle) (hpos : 0 < s.held) : (s.popEnd b).Inv := by
  have hheld := held_pop hpos
  unfold State.popEnd
  rw [nextCursor_eq]
  refine reply_inv _ _ _ { h with slots_written := fun j hj => ?slots, phase_ok := ?phase }
  case slots =>
    rw [slotAt_pop]
    exact h.slots_written (j + 1) (by omega)
  case phase => simp only [State.PhaseOk, hidle]

theorem pop_inv (h : s.Inv) (hidle : s.qPhase = .idle) : s.pop.Inv := by
  obtain ⟨-, hpop⟩ | ⟨hpos, hpop⟩ := pop_cases s <;> rw [hpop]
  · exact reply_inv _ _ _ h
  · exact popEnd_inv _ h hidle hpos

/-- Each micro-step finds of the FIFO what the next one needs (20_memory.md R57, R58). -/
theorem microStep_inv (h : s.Inv) (hbusy : s.txBusy = false) : s.microStep.Inv := by
  have hok := h.phase_ok
  unfold State.PhaseOk at hok
  unfold State.microStep
  split <;> rename_i hphase <;> rw [hphase] at hok
  case h_1 => exact h
  case h_2 p =>
    split
    case isTrue => exact reply_inv _ _ _ (idle_inv h)
    case isFalse hempty =>
      have hseen : State.held { s with posIn := p } ≠ 0 := mt (fifoEmpty_iff_held _).2 hempty
      exact phase_inv h hbusy ((Nat.pos_of_ne_zero hseen).trans_le hok)
  case h_3 => exact phase_inv h hbusy ⟨hok, rfl⟩
  case h_4 b => exact popEnd_inv b (idle_inv h) rfl hok.1
  case h_5 => exact reply_inv _ _ _ (idle_inv h)

/-! ### The serializer -/

theorem sendClear_inv (h : s.Inv) : s.sendClear.Inv :=
  { h with tx_clear := fun _ => ⟨rfl, rfl⟩, tx_progress := fun hbusy => absurd hbusy Bool.false_ne_true }

/-- A payload length of 255 gives the longest frame of a generation. -/
theorem wireLength_le_max (c : Config) (len : PayloadLen) : wireLength c len ≤ wireLength c 255 := by
  have hlen := payloadLen_lt len
  have hmax : (255 : PayloadLen).toNat = 255 := rfl
  rw [wireLength, wireLength, hmax]
  omega

theorem sendIssue_inv (h : s.Inv) (hidle : s.qPhase = .idle) : s.sendIssue.Inv := by
  have hlength : s.sendIssue.txBytes.length = wireLength s.cfg (withChecksums s.cfg s.frameOperand).payloadLen :=
    length_wireBytes _ _
  refine { h with
    tx_clear := fun hbusy => absurd hbusy.symm Bool.false_ne_true
    tx_progress := fun _ => ⟨hidle, ?_, ?_, ?_⟩ }
  · rw [← List.length_pos_iff, hlength]
    exact Nat.zero_lt_of_lt (hcrcAt_lt_wireLength _ _)
  · rw [hlength]
    exact wireLength_le_max _ _
  · exact Nat.zero_le _

/-- An accepted byte moves the index on by one, within the frame. -/
theorem txIdx_next_inv {b : Byte} (h : s.Inv) (hb : s.txBytes[s.txIdx.toNat]? = some b) :
    ({ s with txIdx := s.txIdx + 1 } : State).Inv := by
  obtain ⟨hlt, -⟩ := List.getElem?_eq_some_iff.1 hb
  have hsending : s.txBusy = true := by
    by_contra hbusy
    obtain ⟨hbytes, -⟩ := h.tx_clear (Bool.eq_false_of_not_eq_true hbusy)
    simp [hbytes] at hlt
  obtain ⟨hidle, hne, hlength, -⟩ := h.tx_progress hsending
  have hnext : (s.txIdx + 1).toNat = s.txIdx.toNat + 1 := by
    have hmax := wireLength_le s.cfg 255
    rw [inLen_next_toNat, Nat.mod_eq_of_lt (by omega)]
  exact { h with
    tx_clear := fun hbusy => absurd (hbusy.symm.trans hsending) Bool.false_ne_true
    tx_progress := fun _ => ⟨hidle, hne, hlength, hnext ▸ hlt⟩ }

theorem sendAnswered_inv {b : Byte} (a : SinkAnswer) (h : s.Inv) (hb : s.txBytes[s.txIdx.toNat]? = some b) :
    (s.sendAnswered b a).Inv := by
  have hlogged : ({ s with sinkLog := s.sinkLog ++ [(b, a)] } : State).Inv := inv_of_block_eq h rfl rfl rfl
  cases a with
  | accept => exact txIdx_next_inv hlogged hb
  | retry => exact hlogged
  | error e => exact (reply_inv .consumer _ _ (sendClear_inv hlogged) :)

theorem sendStep_inv (h : s.Inv) : s.sendStep.Inv := by
  obtain ⟨b, a, sinkIn, ix, hb, hsend⟩ | ⟨-, hsend⟩ := sendStep_cases s <;> rw [hsend]
  · exact sendAnswered_inv a (inv_of_block_eq h rfl rfl rfl) hb
  · exact reply_inv _ _ _ (sendClear_inv h)

/-! ### Operations, requests and steps -/

/-- An operation keeps the invariant; one of the consumer port begins with nothing in progress there. -/
theorem effect_inv {i : Instr} (h : s.Inv) (hidle : i.port = .consumer → s.qPhase = .idle) : (effect s i).Inv := by
  cases i <;> unfold effect
  case crchReset | crchUpdate => exact reply_inv _ _ _ (crch_inv h _)
  case crcfReset => exact reply_inv _ _ _ (crcf_inv h (fcrcInit_masked s.cfg))
  case crcfUpdate d => exact reply_inv _ _ _ (crcf_inv h (fcrcUpdate_masked s.cfg s.crcfReg d))
  case fifoPush d => exact push_inv d h
  case fifoPop => exact pop_inv h (hidle rfl)
  case rxReset => exact reply_inv _ _ _ (rxReset_inv h)
  case rxHandleByte d => exact handleByte_inv d h
  case txSend => exact sendIssue_inv h (hidle rfl)
  case crchFinalize | crcfFinalize | fifoAvailable | guardCrc | guardAddr | frameUpdateCrc => exact reply_inv _ _ _ h

theorem serve_inv {p : Port} {r : Request} (h : s.Inv) (hidle : p = .consumer → s.qPhase = .idle)
    (hserve : s.serve p r = .next t) : t.Inv := by
  have hserved : ({ s with opPort := p, bundle := r.bundle } : State).Inv := inv_of_block_eq h rfl rfl rfl
  obtain rfl | ⟨i, -, hexec⟩ := serve_cases hserve
  · exact refuse_inv _ _ _ h
  obtain ⟨hport, rfl⟩ | ⟨-, rfl⟩ := exec_cases hexec
  · exact effect_inv hserved fun hi => hidle (hport.trans hi)
  · exact refuse_inv _ _ _ hserved

theorem serveMicro_inv {r : Request} (h : s.Inv) (hbusy : s.txBusy = false) (hidle : s.qPhase = .idle)
    (hserve : s.serveMicro r = .next t) : t.Inv := by
  have hserved : ({ s with opPort := .consumer, bundle := r.bundle } : State).Inv := inv_of_block_eq h rfl rfl rfl
  obtain rfl | rfl | hwhole := serveMicro_cases hserve
  · exact phase_inv hserved hbusy le_rfl
  · exact phase_inv hserved hbusy le_rfl
  · exact serve_inv h (fun _ => hidle) hwhole

theorem producerStep_inv (h : s.Inv) (hstep : s.producerStep = .next t) : t.Inv := by
  obtain ⟨-, rfl⟩ | ⟨r, rest, -, hserve⟩ := producerStep_cases hstep
  · exact h
  · exact serve_inv (s := { s with pReqs := rest }) (p := .producer) (inv_of_block_eq h rfl rfl rfl) nofun hserve

/-- A consumer step keeps the invariant when the way it serves a request with nothing in progress does. -/
theorem consumerStepBy_inv {serve : State → Request → Host.Outcome State Fault Refusal}
    (hserve : ∀ {u v : State} {r : Request}, u.Inv → u.txBusy = false → u.qPhase = .idle → serve u r = .next v → v.Inv)
    (h : s.Inv) (hstep : s.consumerStepBy serve = .next t) : t.Inv := by
  obtain ⟨-, rfl⟩ | ⟨hbusy, -, rfl⟩ | ⟨-, -, -, rfl⟩ | ⟨hbusy, hidle, r, rest, -, hr⟩ := consumerStepBy_cases hstep
  · exact sendStep_inv h
  · exact microStep_inv h hbusy
  · exact h
  · exact hserve (u := { s with qReqs := rest }) (inv_of_block_eq h rfl rfl rfl) hbusy hidle hr

theorem nextTurn_inv (h : s.Inv) : s.nextTurn.2.Inv := by
  obtain ⟨turns, ix, hs⟩ := nextTurn_state s
  rw [hs]
  exact inv_of_block_eq h rfl rfl rfl

theorem step_inv (h : s.Inv) (hstep : step s = .next t) : t.Inv := by
  have hturn := nextTurn_inv h
  obtain ⟨-, rfl⟩ | ⟨-, hp⟩ | ⟨-, hq⟩ | ⟨-, hq⟩ := step_cases hstep
  · exact h
  · exact producerStep_inv hturn hp
  · exact consumerStepBy_inv (fun hu _ hidle => serve_inv hu fun _ => hidle) hturn hq
  · exact consumerStepBy_inv serveMicro_inv hturn hq

end

/-- Settles O52: each side's step is made of updates that keep the invariant. -/
theorem everyStepKeepsTheInvariant : Obligations.EveryStepKeepsTheInvariant := fun _ _ => step_inv

end Sys2Proof.Machine
end

section
/-! Which side of the block steps next, and how a consumer step takes up a request (20_memory.md R56 to R58,
60_exceptions.md R258, 70_reset_and_hazards.md R282): an equation for each case of the choice and of the step. -/

namespace Sys2Proof.Machine

/-! ### The choice of a side -/

section
variable {s u : State}

theorem step_of_nextTurn {t : Turn} (h : s.nextTurn = (some t, u)) : step s = u.takeTurn t := by
  unfold step
  rw [h]

theorem step_of_nextTurn_none (h : s.nextTurn = (none, u)) : step s = .next s := by
  unfold step
  rw [h]

theorem nextTurn_planned {t : Turn} {rest : List Turn} (h : s.turns = t :: rest) :
    s.nextTurn = (some t, { s with turns := rest }) := by
  unfold State.nextTurn
  rw [h]

theorem step_planned {t : Turn} {rest : List Turn} (h : s.turns = t :: rest) :
    step s = ({ s with turns := rest } : State).takeTurn t :=
  step_of_nextTurn (nextTurn_planned h)

theorem producerReady_iff : s.producerReady = true ↔ s.pReqs ≠ [] := by
  simp [State.producerReady]

theorem consumerReady_iff : s.consumerReady = true ↔ s.txBusy = true ∨ s.qPhase ≠ .idle ∨ s.qReqs ≠ [] := by
  simp [State.consumerReady, or_assoc]

theorem producerReady_eq_false_iff : s.producerReady = false ↔ s.pReqs = [] := by
  rw [← Bool.not_eq_true, producerReady_iff, not_not]

theorem consumerReady_eq_false_iff :
    s.consumerReady = false ↔ s.txBusy = false ∧ s.qPhase = .idle ∧ s.qReqs = [] := by
  simp [← Bool.not_eq_true, consumerReady_iff]

/-! With no plan, the sides that have work decide (R258). -/

theorem nextTurn_producer_only (hplan : s.turns = []) (hp : s.producerReady = true) (hq : s.consumerReady = false) :
    s.nextTurn = (some .producer, s) := by
  simp [State.nextTurn, hplan, hp, hq]

theorem nextTurn_consumer_only (hplan : s.turns = []) (hp : s.producerReady = false) (hq : s.consumerReady = true) :
    s.nextTurn = (some .consumer, s) := by
  simp [State.nextTurn, hplan, hp, hq]

theorem nextTurn_open (hplan : s.turns = []) (hp : s.producerReady = true) (hq : s.consumerReady = true) :
    s.nextTurn = (some (Config.freeTurn s.freeIx), { s with freeIx := s.freeIx + 1 }) := by
  simp [State.nextTurn, hplan, hp, hq]

theorem nextTurn_no_work (hplan : s.turns = []) (hp : s.producerReady = false) (hq : s.consumerReady = false) :
    s.nextTurn = (none, s) := by
  simp [State.nextTurn, hplan, hp, hq]

end

/-- Settles O8, by whether a turn is planned and which sides have work. -/
theorem nextTurnIsPlannedForcedOrOpen : Obligations.NextTurnIsPlannedForcedOrOpen := by
  unfold Obligations.NextTurnIsPlannedForcedOrOpen
  refine ⟨fun s t rest => step_planned, fun s hplan hp hbusy hphase hq => ?producer, fun s hplan hp hq => ?consumer,
    fun s hplan hp hq => ?both, fun s hplan hp hbusy hphase hq => ?neither⟩
  case producer =>
    exact step_of_nextTurn
      (nextTurn_producer_only hplan (producerReady_iff.2 hp) (consumerReady_eq_false_iff.2 ⟨hbusy, hphase, hq⟩))
  case consumer =>
    exact step_of_nextTurn
      (nextTurn_consumer_only hplan (producerReady_eq_false_iff.2 hp) (consumerReady_iff.2 hq))
  case both =>
    exact ⟨_, step_of_nextTurn (nextTurn_open hplan (producerReady_iff.2 hp) (consumerReady_iff.2 hq))⟩
  case neither =>
    exact step_of_nextTurn_none
      (nextTurn_no_work hplan (producerReady_eq_false_iff.2 hp) (consumerReady_eq_false_iff.2 ⟨hbusy, hphase, hq⟩))

/-! ### A consumer step -/

section
variable {s : State} {serve : State → Request → Host.Outcome State Fault Refusal} {r : Request} {rest : List Request}
  {i : Instr}

theorem consumerStepBy_phase (hbusy : s.txBusy = false) (hphase : s.qPhase ≠ .idle) :
    s.consumerStepBy serve = .next s.microStep := by
  simp [State.consumerStepBy, hbusy, hphase]

/-- On either kind of consumer turn, the micro-step reached goes on. -/
theorem takeTurn_phase {t : Turn} (ht : t ≠ .producer) (hbusy : s.txBusy = false) (hphase : s.qPhase ≠ .idle) :
    s.takeTurn t = .next s.microStep := by
  cases t with
  | producer => exact absurd rfl ht
  | consumer => exact consumerStepBy_phase (serve := fun u r => u.serve .consumer r) hbusy hphase
  | consumerMicro => exact consumerStepBy_phase (serve := State.serveMicro) hbusy hphase

theorem consumerStepBy_request (hbusy : s.txBusy = false) (hphase : s.qPhase = .idle) (hq : s.qReqs = r :: rest) :
    s.consumerStepBy serve = serve { s with qReqs := rest } r := by
  simp [State.consumerStepBy, hbusy, hphase, hq]

theorem serve_of_decode (p : Port) (h : decode r.word = .ok i) :
    s.serve p r = exec i { s with opPort := p, bundle := r.bundle } := by
  unfold State.serve
  rw [h]

/-- Only POP and AVAILABLE have micro-steps (20_memory.md R56). -/
theorem firstMicroStep_eq_none (hpop : i ≠ .fifoPop) (havailable : i ≠ .fifoAvailable) : s.firstMicroStep i = none := by
  cases i
  case fifoPop => exact absurd rfl hpop
  case fifoAvailable => exact absurd rfl havailable
  all_goals rfl

theorem serveMicro_of_firstMicroStep {t : State} (h : decode r.word = .ok i)
    (hfirst : ({ s with opPort := .consumer, bundle := r.bundle } : State).firstMicroStep i = some t) :
    s.serveMicro r = .next t := by
  unfold State.serveMicro
  rw [h]
  simp only [hfirst]

theorem serveMicro_of_atomic (h : decode r.word = .ok i) (hpop : i ≠ .fifoPop) (havailable : i ≠ .fifoAvailable) :
    s.serveMicro r = s.serve .consumer r := by
  unfold State.serveMicro
  rw [h]
  simp only [firstMicroStep_eq_none hpop havailable]

end

/-- Settles O25: the planned turn is a consumer step, which serves the oldest request or goes on with the micro-step. -/
theorem microTurnTakesQ1AndGoesOn : Obligations.MicroTurnTakesQ1AndGoesOn := by
  unfold Obligations.MicroTurnTakesQ1AndGoesOn
  refine ⟨fun s ts r rest i hturns hbusy hphase hq hdecode => ?begins, fun s t ts hturns ht hbusy hphase => ?goesOn⟩
  case begins =>
    have hstep : step s = State.serveMicro { s with turns := ts, qReqs := rest } r :=
      (step_planned hturns).trans (consumerStepBy_request hbusy hphase hq)
    refine ⟨fun hpop => ?pop, fun havailable => ?available, fun hpop havailable => ?whole⟩
    case pop =>
      subst hpop
      exact hstep.trans (serveMicro_of_firstMicroStep hdecode rfl)
    case available =>
      subst havailable
      exact hstep.trans (serveMicro_of_firstMicroStep hdecode rfl)
    case whole =>
      rw [hstep, serveMicro_of_atomic hdecode hpop havailable, serve_of_decode .consumer hdecode]
  case goesOn => exact (step_planned hturns).trans (takeTurn_phase ht (s := { s with turns := ts }) hbusy hphase)

end Sys2Proof.Machine
end

section
/-! The operations of agent Q that read: they change nothing of the block and repeat their result (20_memory.md R53). -/

namespace Sys2Proof.Machine

/-- The operations R53 calls idempotent. -/
abbrev ReadingOperation (i : Instr) : Prop :=
  i = .crchFinalize ∨ i = .crcfFinalize ∨ i = .fifoAvailable ∨ i = .guardCrc ∨ i = .guardAddr ∨ i = .frameUpdateCrc

/-- A reading operation only returns a result, and the same one again once it has returned it. -/
theorem effect_of_readingOperation {i : Instr} (h : ReadingOperation i) (s : State) :
    ∃ r c, effect s i = s.reply .consumer r c ∧
      effect (s.reply .consumer r c) i = (s.reply .consumer r c).reply .consumer r c := by
  rcases h with rfl | rfl | rfl | rfl | rfl | rfl <;> exact ⟨_, _, rfl, rfl⟩

@[simp] theorem portViolation_opPort (s : State) (i : Instr) : (s.portViolation i).opPort = s.opPort := by
  simp [State.portViolation]

/-- A refusal goes to the agent whose port the request stood on. -/
theorem portViolation_out (s : State) (i : Instr) :
    (s.opPort = .consumer → (s.portViolation i).qOut = s.qOut ++ [.portViolation (encode i) .consumer]) ∧
    (s.opPort = .producer → (s.portViolation i).pOut = s.pOut ++ [.portViolation (encode i) .producer]) := by
  unfold State.portViolation
  constructor <;> intro h <;> rw [h] <;> rfl

/-- An operation refused twice is refused with the same result. -/
theorem portViolation_repeats (s : State) (i : Instr) :
    ∃ r, (s.portViolation i).qOut = s.qOut ++ [r] ∧
        ((s.portViolation i).portViolation i).qOut = (s.portViolation i).qOut ++ [r] ∨
      (s.portViolation i).pOut = s.pOut ++ [r] ∧
        ((s.portViolation i).portViolation i).pOut = (s.portViolation i).pOut ++ [r] := by
  obtain ⟨hconsumer, hproducer⟩ := portViolation_out s i
  obtain ⟨hconsumer', hproducer'⟩ := portViolation_out (s.portViolation i) i
  rw [portViolation_opPort] at hconsumer' hproducer'
  cases hport : s.opPort
  case consumer => exact ⟨_, .inl ⟨hconsumer hport, hconsumer' hport⟩⟩
  case producer => exact ⟨_, .inr ⟨hproducer hport, hproducer' hport⟩⟩

/-- Settles O59: on its port a reading operation returns its result twice, on the other it is refused twice. -/
theorem readingOperationsChangeNothingAndRepeat : Obligations.ReadingOperationsChangeNothingAndRepeat := by
  unfold Obligations.ReadingOperationsChangeNothingAndRepeat
  intro s t u i hi hfirst hsecond
  have hcfg := exec_cfg hfirst
  obtain ⟨hport, rfl⟩ | ⟨hport, rfl⟩ := exec_cases hfirst
  case inl =>
    obtain ⟨r, c, heffect, hagain⟩ := effect_of_readingOperation hi s
    rw [exec_of_port ((effect_opPort s i).trans hport), heffect, hagain] at hsecond
    cases hsecond
    rw [heffect] at hcfg ⊢
    exact ⟨rfl, rfl, hcfg, r, .inl ⟨rfl, rfl⟩⟩
  case inr =>
    rw [exec_of_wrong_port ((portViolation_opPort s i).trans_ne hport)] at hsecond
    cases hsecond
    exact ⟨by simp, by simp, hcfg, portViolation_repeats s i⟩

end Sys2Proof.Machine
end

section
/-! POP and AVAILABLE in micro-steps with pushes between them (20_memory.md R57, R58, R61). A push reads nothing that a
micro-step writes before its end, and leaves the oldest byte held where it is; so the pushes may be moved to one side of
the whole operation. -/

namespace Sys2Proof.Machine

/-! ### The micro-steps by phase -/

section
variable {s : State}

theorem microStep_popRead_empty {p : Cursor} (hphase : s.qPhase = .popRead p) (hp : p = s.posOut) :
    s.microStep = ({ s with qPhase := .idle } : State).popNone := by
  simp [State.microStep, hphase, fifoEmpty, hp]

theorem microStep_popRead_nonempty {p : Cursor} (hphase : s.qPhase = .popRead p) (hp : p ≠ s.posOut) :
    s.microStep = { s with qPhase := .popNonEmpty } := by
  simp [State.microStep, hphase, fifoEmpty, hp]

theorem microStep_popNonEmpty (hphase : s.qPhase = .popNonEmpty) :
    s.microStep = { s with qPhase := .popHave s.oldestByte } := by
  simp [State.microStep, hphase]

theorem microStep_popHave {b : Byte} (hphase : s.qPhase = .popHave b) :
    s.microStep = ({ s with qPhase := .idle } : State).popEnd b := by
  simp [State.microStep, hphase]

theorem microStep_availRead {p : Cursor} (hphase : s.qPhase = .availRead p) :
    s.microStep = ({ s with qPhase := .idle } : State).available p := by
  simp [State.microStep, hphase]

end

/-! ### Pushes between the steps of agent Q -/

section
variable (s : State) (d : Byte) (ds : List Byte)

@[simp] theorem push_posOut : (s.push d).posOut = s.posOut := by
  unfold State.push
  split <;> rfl

@[simp] theorem push_qPhase : (s.push d).qPhase = s.qPhase := by
  unfold State.push
  split <;> rfl

@[simp] theorem pushes_posOut : (s.pushes ds).posOut = s.posOut := by
  induction ds generalizing s with
  | nil => rfl
  | cons d ds ih => exact (ih (s.push d)).trans (push_posOut s d)

@[simp] theorem pushes_qPhase : (s.pushes ds).qPhase = s.qPhase := by
  induction ds generalizing s with
  | nil => rfl
  | cons d ds ih => exact (ih (s.push d)).trans (push_qPhase s d)

/-- A push does not read the micro-step in progress. -/
theorem push_with_qPhase (q : QPhase) :
    ({ s with qPhase := q } : State).push d = { s.push d with qPhase := q } := by
  unfold State.push
  split <;> rfl

theorem pushes_with_qPhase (q : QPhase) :
    ({ s with qPhase := q } : State).pushes ds = { s.pushes ds with qPhase := q } := by
  induction ds generalizing s with
  | nil => rfl
  | cons d ds ih =>
    rw [State.pushes, State.pushes, push_with_qPhase]
    exact ih (s.push d)

variable {s} in
/-- A push into a FIFO that holds a byte leaves the oldest one the oldest. -/
theorem push_keeps_oldest (h : 0 < s.held) : 0 < (s.push d).held ∧ (s.push d).oldestByte = s.oldestByte := by
  obtain ⟨-, hpush⟩ | ⟨hroom, hpush⟩ := push_cases s d <;> rw [hpush]
  · exact ⟨h, rfl⟩
  · have hheld := held_push (s.ring.store s.posIn.toNat d) hroom
    exact ⟨(Nat.succ_pos _).trans_eq hheld.symm, Memory.load_store_other .ring s.ring d (posOut_ne_posIn h)⟩

variable {s} in
theorem pushes_keep_oldest (h : 0 < s.held) : 0 < (s.pushes ds).held ∧ (s.pushes ds).oldestByte = s.oldestByte := by
  induction ds generalizing s with
  | nil => exact ⟨h, rfl⟩
  | cons d ds ih =>
    obtain ⟨hheld, holdest⟩ := push_keeps_oldest d h
    obtain ⟨hheld', holdest'⟩ := ih hheld
    exact ⟨hheld', holdest'.trans holdest⟩

/-- A push after a result to agent Q differs from one before it in the ghost record alone. -/
theorem push_reply_consumer (r : Result) (c : OutcomeCode) (g : List OutcomeCode) :
    ∃ g', ({ s.reply .consumer r c with ghost := g } : State).push d =
      { (s.push d).reply .consumer r c with ghost := g' } := by
  simp only [State.push, reply_consumer_fields]
  split <;> exact ⟨_, rfl⟩

theorem pushes_reply_consumer_ghost (r : Result) (c : OutcomeCode) (g : List OutcomeCode) :
    ∃ g', ({ s.reply .consumer r c with ghost := g } : State).pushes ds =
      { (s.pushes ds).reply .consumer r c with ghost := g' } := by
  induction ds generalizing s g with
  | nil => exact ⟨g, rfl⟩
  | cons d ds ih =>
    obtain ⟨g', hpush⟩ := push_reply_consumer s d r c g
    rw [State.pushes, State.pushes, hpush]
    exact ih (s.push d) g'

/-- A result to agent Q may be moved past pushes, but for the order of the ghost record. -/
theorem pushes_reply_consumer (r : Result) (c : OutcomeCode) :
    ({ (s.pushes ds).reply .consumer r c with ghost := [] } : State) =
      { (s.reply .consumer r c).pushes ds with ghost := [] } := by
  obtain ⟨g', hpushes⟩ := pushes_reply_consumer_ghost s ds r c (s.reply .consumer r c).ghost
  exact congrArg (fun u : State => { u with ghost := [] }) hpushes.symm

end

/-! ### The whole operation at its linearization point -/

section
variable {s : State}

/-- With no micro-step in progress, ending one changes nothing. -/
theorem with_qPhase_idle (h : s.qPhase = .idle) : ({ s with qPhase := .idle } : State) = s := by
  rw [← h]

theorem pop_of_empty (h : s.posIn = s.posOut) : s.pop = s.popNone := by
  simp [State.pop, fifoEmpty, h]

theorem pop_of_held (h : 0 < s.held) : s.pop = s.popEnd s.oldestByte := by
  obtain ⟨hheld, -⟩ | ⟨-, hpop⟩ := pop_cases s
  · exact absurd hheld h.ne'
  · exact hpop

theorem held_pos_iff : 0 < s.held ↔ s.posIn ≠ s.posOut := by
  rw [Nat.pos_iff_ne_zero, Ne, ← fifoEmpty_iff_held, fifoEmpty, beq_iff_eq]

/-- A POP that returns a byte is whole at its Q4. -/
theorem microStepped_pop_nonempty (a b c : List Byte) (hidle : s.qPhase = .idle) (hne : s.posIn ≠ s.posOut) :
    ((((s.popQ1.pushes a).microStep.pushes b).microStep).pushes c).microStep =
      (((s.pushes a).pushes b).pushes c).pop := by
  obtain ⟨hheldA, -⟩ := pushes_keep_oldest a (held_pos_iff.2 hne)
  obtain ⟨hheldB, -⟩ := pushes_keep_oldest b hheldA
  obtain ⟨hheldC, holdest⟩ := pushes_keep_oldest c hheldB
  have hq2 : (s.popQ1.pushes a).microStep = { s.pushes a with qPhase := .popNonEmpty } := by
    rw [State.popQ1, pushes_with_qPhase, microStep_popRead_nonempty rfl (by simpa using hne)]
  have hq3 : ((s.popQ1.pushes a).microStep.pushes b).microStep =
      { (s.pushes a).pushes b with qPhase := .popHave ((s.pushes a).pushes b).oldestByte } := by
    rw [hq2, pushes_with_qPhase, microStep_popNonEmpty rfl]
    rfl
  have hended : ({ ((s.pushes a).pushes b).pushes c with qPhase := .idle } : State) =
      ((s.pushes a).pushes b).pushes c := with_qPhase_idle (by simpa using hidle)
  rw [hq3, pushes_with_qPhase, microStep_popHave rfl, hended, pop_of_held hheldC, holdest]

/-- A POP that returns none is whole at its Q1. -/
theorem microStepped_pop_empty (a : List Byte) (hidle : s.qPhase = .idle) (hempty : s.posIn = s.posOut) :
    ({ (s.popQ1.pushes a).microStep with ghost := [] } : State) = { s.pop.pushes a with ghost := [] } := by
  have hended : ({ s.pushes a with qPhase := .idle } : State) = s.pushes a := with_qPhase_idle (by simpa using hidle)
  rw [State.popQ1, pushes_with_qPhase, microStep_popRead_empty rfl (by simpa using hempty), hended,
    pop_of_empty hempty]
  exact pushes_reply_consumer s a _ _

/-- An AVAILABLE is whole at its Q1. -/
theorem microStepped_available (a : List Byte) (hidle : s.qPhase = .idle) :
    ({ (s.availableQ1.pushes a).microStep with ghost := [] } : State) =
      { (s.available s.posIn).pushes a with ghost := [] } := by
  have hended : ({ s.pushes a with qPhase := .idle } : State) = s.pushes a := with_qPhase_idle (by simpa using hidle)
  rw [State.availableQ1, pushes_with_qPhase, microStep_availRead rfl, hended, State.available, pushes_posOut]
  exact pushes_reply_consumer s a _ _

end

/-- Settles O24, from the linearization point of each of the three operations. -/
theorem microSteppedFifoOperationsAreWholeAtOneInstant :
    Obligations.MicroSteppedFifoOperationsAreWholeAtOneInstant :=
  fun _ a b c hidle => ⟨microStepped_pop_nonempty a b c hidle, microStepped_pop_empty a hidle,
    microStepped_available a hidle⟩

end Sys2Proof.Machine
end

section
/-! Operation words (30_encoding.md R70 to R73): a word is its three fields, an operation's word has the fields of its row
and its operand, and the decoder answers an operation exactly for that operation's word. -/

namespace Sys2Proof

/-! ### The fields of a word -/

/-- A word is determined by its three fields (R70). -/
theorem eq_of_fields {v w : Half} (hunit : unitField v = unitField w) (hop : opField v = opField w)
    (hdata : dataField v = dataField w) : v = w := by
  have hdata' := congrArg BitVec.toNat hdata
  simp only [unitField, opField, dataField, BitVec.extractLsb'_toNat, Nat.shiftRight_eq_div_pow] at hunit hop hdata'
  apply BitVec.eq_of_toNat_eq
  omega

/-- The low byte of a word, put back in its place. -/
theorem setWidth_dataField (w : Half) : (dataField w).setWidth 16 = w &&& 0xFF := by
  apply BitVec.eq_of_toNat_eq
  rw [dataField, BitVec.toNat_setWidth_of_le (by decide), BitVec.extractLsb'_toNat, BitVec.toNat_and]
  exact (Nat.and_two_pow_sub_one_eq_mod w.toNat 8).symm

/-! ### The fields of an operation's word -/

/-- A byte operand has no bits above `DATA`. -/
theorem extractLsb'_operand (d : Byte) {start : Nat} (len : Nat) (h : 8 ≤ start) :
    (d.setWidth 16).extractLsb' start len = 0#len := by
  ext k hk
  simpa using fun _ => BitVec.getLsbD_of_ge d (start + k) (h.trans (Nat.le_add_right start k))

@[simp] theorem unitField_encode (i : Instr) : unitField (encode i) = unitField i.row.pattern := by
  rw [unitField, encode, BitVec.extractLsb'_or, extractLsb'_operand _ _ (by decide), BitVec.or_zero, unitField]

@[simp] theorem opField_encode (i : Instr) : opField (encode i) = opField i.row.pattern := by
  rw [opField, encode, BitVec.extractLsb'_or, extractLsb'_operand _ _ (by decide), BitVec.or_zero, opField]

/-- Every operation's word selects the operation's row and carries its operand. -/
theorem encode_selects_row (i : Instr) : Laws.TableRow.Statement i :=
  match i with
  | .crchReset => Laws.TableRow.crchReset
  | .crchUpdate d => Laws.TableRow.crchUpdate d
  | .crchFinalize => Laws.TableRow.crchFinalize
  | .crcfReset => Laws.TableRow.crcfReset
  | .crcfUpdate d => Laws.TableRow.crcfUpdate d
  | .crcfFinalize => Laws.TableRow.crcfFinalize
  | .fifoPush d => Laws.TableRow.fifoPush d
  | .fifoPop => Laws.TableRow.fifoPop
  | .fifoAvailable => Laws.TableRow.fifoAvailable
  | .rxReset => Laws.TableRow.rxReset
  | .rxHandleByte d => Laws.TableRow.rxHandleByte d
  | .guardCrc => Laws.TableRow.guardCrc
  | .guardAddr => Laws.TableRow.guardAddr
  | .frameUpdateCrc => Laws.TableRow.frameUpdateCrc
  | .txSend => Laws.TableRow.txSend

@[simp] theorem dataField_encode (i : Instr) : dataField (encode i) = i.data := (encode_selects_row i).2

/-- Every row's mask covers `UNIT` and `OP` (R72). -/
theorem mask_or_data (i : Instr) : i.row.mask ||| 0xFF = BitVec.allOnes 16 := by
  cases i <;> simp only [Instr.row] <;> decide

/-- An operation's word is the one that selects its row and carries its operand (R72, R73). -/
theorem encode_eq_iff_selects_row {w : Half} {i : Instr} :
    encode i = w ↔ w &&& i.row.mask = i.row.pattern ∧ i.data = dataField w := by
  constructor
  · rintro rfl
    exact ⟨(encode_selects_row i).1, (dataField_encode i).symm⟩
  · rintro ⟨hrow, hdata⟩
    calc encode i = (w &&& i.row.mask) ||| (w &&& 0xFF) := by rw [encode, hdata, setWidth_dataField, hrow]
      _ = w := by rw [← BitVec.and_or_distrib_left, mask_or_data, BitVec.and_allOnes]

/-! ### What the decoder answers -/

/-- `i` stands in the row of unit `unit` and operation `op`, and its operand is `d`. -/
structure Instr.HasFields (i : Instr) (unit op : Nat) (d : Byte) : Prop where
  unit_eq : unitField i.row.pattern = unit
  op_eq : opField i.row.pattern = op
  data_eq : i.data = d

/-- An operation with the fields of a word is the word's. -/
theorem Instr.HasFields.encode_eq {i : Instr} {w : Half} (h : i.HasFields (unitField w) (opField w) (dataField w)) :
    encode i = w :=
  eq_of_fields ((unitField_encode i).trans h.unit_eq) ((opField_encode i).trans h.op_eq)
    ((dataField_encode i).trans h.data_eq)

section
variable {i j : Instr} {unit op : Nat} {d : Byte}

theorem hasFields_of_pattern (pattern : Half) (hrow : i.row.pattern = pattern) (hunit : unitField pattern = unit)
    (hop : opField pattern = op) : i.HasFields unit op i.data :=
  ⟨hrow ▸ hunit, hrow ▸ hop, rfl⟩

/-- A row whose `DATA` must be zero answers its operation for that `DATA` alone (R73). -/
theorem hasFields_of_decodePlain (hj : j.HasFields unit op 0) (h : decodePlain j d = .ok i) : i.HasFields unit op d := by
  unfold decodePlain at h
  split at h
  case isTrue hzero =>
    cases h
    exact hzero ▸ hj
  case isFalse => cases h

theorem hasFields_of_decodeCrcH (h : decodeCrcH op d = .ok i) : i.HasFields 1 op d := by
  unfold decodeCrcH at h
  split at h
  · exact hasFields_of_decodePlain ⟨rfl, rfl, rfl⟩ h
  · cases h; exact hasFields_of_pattern 0x1100 rfl rfl rfl
  · exact hasFields_of_decodePlain ⟨rfl, rfl, rfl⟩ h
  · cases h

theorem hasFields_of_decodeCrcF (h : decodeCrcF op d = .ok i) : i.HasFields 2 op d := by
  unfold decodeCrcF at h
  split at h
  · exact hasFields_of_decodePlain ⟨rfl, rfl, rfl⟩ h
  · cases h; exact hasFields_of_pattern 0x2100 rfl rfl rfl
  · exact hasFields_of_decodePlain ⟨rfl, rfl, rfl⟩ h
  · cases h

theorem hasFields_of_decodeFifo (h : decodeFifo op d = .ok i) : i.HasFields 3 op d := by
  unfold decodeFifo at h
  split at h
  · cases h; exact hasFields_of_pattern 0x3100 rfl rfl rfl
  · exact hasFields_of_decodePlain ⟨rfl, rfl, rfl⟩ h
  · exact hasFields_of_decodePlain ⟨rfl, rfl, rfl⟩ h
  · cases h

theorem hasFields_of_decodeRx (h : decodeRx op d = .ok i) : i.HasFields 4 op d := by
  unfold decodeRx at h
  split at h
  · exact hasFields_of_decodePlain ⟨rfl, rfl, rfl⟩ h
  · cases h; exact hasFields_of_pattern 0x4100 rfl rfl rfl
  · cases h

theorem hasFields_of_decodeFrame (h : decodeFrame op d = .ok i) : i.HasFields 5 op d := by
  unfold decodeFrame at h
  split at h
  · exact hasFields_of_decodePlain ⟨rfl, rfl, rfl⟩ h
  · exact hasFields_of_decodePlain ⟨rfl, rfl, rfl⟩ h
  · exact hasFields_of_decodePlain ⟨rfl, rfl, rfl⟩ h
  · cases h

theorem hasFields_of_decodeTx (h : decodeTx op d = .ok i) : i.HasFields 6 op d := by
  unfold decodeTx at h
  split at h
  · exact hasFields_of_decodePlain ⟨rfl, rfl, rfl⟩ h
  · cases h

end

/-- What the decoder answers has the word's fields. -/
theorem hasFields_of_decode {w : Half} {i : Instr} (h : decode w = .ok i) :
    i.HasFields (unitField w) (opField w) (dataField w) := by
  unfold decode at h
  split at h
  case h_1 hunit => rw [hunit]; exact hasFields_of_decodeCrcH h
  case h_2 hunit => rw [hunit]; exact hasFields_of_decodeCrcF h
  case h_3 hunit => rw [hunit]; exact hasFields_of_decodeFifo h
  case h_4 hunit => rw [hunit]; exact hasFields_of_decodeRx h
  case h_5 hunit => rw [hunit]; exact hasFields_of_decodeFrame h
  case h_6 hunit => rw [hunit]; exact hasFields_of_decodeTx h
  case h_7 => cases h

/-- Every operation is read back from its word: its fields lead the decoder to its row. -/
@[simp] theorem decode_encode (i : Instr) : decode (encode i) = .ok i := by
  rw [decode, unitField_encode, opField_encode, dataField_encode]
  cases i <;> simp only [Instr.row, Instr.data] <;> rfl

theorem encode_eq_of_decode {w : Half} {i : Instr} (h : decode w = .ok i) : encode i = w :=
  (hasFields_of_decode h).encode_eq

theorem decode_eq_ok_iff {w : Half} {i : Instr} : decode w = .ok i ↔ encode i = w :=
  ⟨encode_eq_of_decode, fun h => h ▸ decode_encode i⟩

/-- Settles O2, from the fields of an operation's word and the fields of what the decoder answers. -/
theorem decodeAndEncodeAgree : Obligations.DecodeAndEncodeAgree :=
  ⟨decode_encode, fun _ _ => encode_eq_of_decode⟩

/-- Settles O3: both sides say that the word is the operation's. -/
theorem wordSelectsItsRowByMaskAndMatch : Obligations.WordSelectsItsRowByMaskAndMatch :=
  fun _ _ => decode_eq_ok_iff.trans encode_eq_iff_selects_row

/-- Settles O1, by running the decoder on each word. -/
theorem listedWordsDecodeAsTheTableSays : Obligations.ListedWordsDecodeAsTheTableSays := by
  unfold Obligations.ListedWordsDecodeAsTheTableSays
  decide

end Sys2Proof
end

section
/-! How a request is served (30_encoding.md R70, R74, R76, R77): the two refusals, and the step that runs the operation a
word decodes to. -/

namespace Sys2Proof.Machine

/-! ### The refusals -/

/-- The decoder refuses a word that selects no row (R77). -/
theorem decode_of_no_row {w : Half} (h : ∀ i : Instr, w &&& i.row.mask ≠ i.row.pattern) :
    ∃ why, decode w = .illegal why := by
  cases hdecode : decode w
  case ok i =>
    obtain ⟨hrow, -⟩ := encode_eq_iff_selects_row.1 (decode_eq_ok_iff.1 hdecode)
    exact absurd hrow (h i)
  case illegal why => exact ⟨why, rfl⟩

theorem serve_of_illegal {r : Request} {why : IllegalWord} (s : State) (p : Port) (h : decode r.word = .illegal why) :
    s.serve p r = .next (s.illegalOp p r.word) := by
  unfold State.serve
  rw [h]

/-- Settles O4: the decoder refuses the word, and the refusal is written on the request's port. -/
theorem illegalWordRefusedWithoutEffect : Obligations.IllegalWordRefusedWithoutEffect := by
  intro s r hno
  obtain ⟨why, hdecode⟩ := decode_of_no_row hno
  exact ⟨serve_of_illegal s .producer hdecode, serve_of_illegal s .consumer hdecode⟩

theorem exec_of_port_violation {i : Instr} {s : State} {p : Port} (hport : s.opPort = p) (h : p ≠ i.port) :
    exec i s = .next (s.refuse p (.portViolation (encode i) p) .portViolation) := by
  subst hport
  exact exec_of_wrong_port h

theorem port_eq_producer_iff (i : Instr) : i.port = .producer ↔ ∃ d, i = .fifoPush d :=
  ⟨eq_fifoPush_of_port_producer, fun ⟨_, h⟩ => h ▸ rfl⟩

/-- Settles O5: only a PUSH is the producer port's, and an operation on the other port is refused on that port. -/
theorem wrongPortRefusedWithoutEffect : Obligations.WrongPortRefusedWithoutEffect := by
  refine ⟨port_eq_producer_iff, fun i s hi hs => ?consumer, fun i s hi hs => ?producer⟩
  case consumer => exact exec_of_port_violation hs (by rw [hi]; decide)
  case producer => exact exec_of_port_violation hs (by rw [hi]; decide)

/-! ### The step that serves a request -/

section
variable {s : State} {r : Request} {rest : List Request} {i : Instr}

theorem producerStep_of_decode (hp : s.pReqs = r :: rest) (h : decode r.word = .ok i) :
    s.producerStep = exec i { s with pReqs := rest, opPort := .producer, bundle := r.bundle } := by
  unfold State.producerStep
  rw [hp]
  exact serve_of_decode .producer h

theorem consumerStep_of_decode (hbusy : s.txBusy = false) (hphase : s.qPhase = .idle) (hq : s.qReqs = r :: rest)
    (h : decode r.word = .ok i) :
    s.consumerStep = exec i { s with qReqs := rest, opPort := .consumer, bundle := r.bundle } :=
  (consumerStepBy_request hbusy hphase hq).trans (serve_of_decode .consumer h)

end

/-- Settles O6: the choice of the side leaves the requests and the operation in progress alone, and the side serves its
oldest request. -/
theorem stepRunsTheDecodedOperation : Obligations.StepRunsTheDecodedOperation := by
  intro s r rest i hdecode
  obtain ⟨turns, ix, hturn⟩ := nextTurn_state s
  refine ⟨fun hside hp => ?producer, fun hside hbusy hphase hq => ?consumer⟩
  case producer =>
    rw [step_of_nextTurn (Prod.ext hside hturn), hturn]
    exact producerStep_of_decode (s := { s with turns := turns, freeIx := ix }) hp hdecode
  case consumer =>
    rw [step_of_nextTurn (Prod.ext hside hturn), hturn]
    exact consumerStep_of_decode (s := { s with turns := turns, freeIx := ix }) hbusy hphase hq hdecode

/-! ### A placed word -/

/-- All 16 bits of an operation word are a word. -/
theorem withFetchWord_of_half (s : State) (w : Half) : s.withFetchWord 16 w.toNat = s.withWord w := by
  have hword : tableWord 16 w.toNat = some w := by
    rw [tableWord, if_pos le_rfl, Nat.mod_eq_of_lt w.isLt, BitVec.ofNat_toNat, BitVec.setWidth_eq]
  rw [State.withFetchWord, hword, Option.getD_some]

theorem portOfWord_of_decode {w : Half} {i : Instr} (h : decode w = .ok i) : portOfWord w = i.port := by
  unfold portOfWord
  rw [h]

section
variable {s : State} {w : Half}

theorem withWord_producer (h : portOfWord w = .producer) :
    s.withWord w = { s with pReqs := { word := w, bundle := s.bundle } :: s.pReqs, turns := .producer :: s.turns } := by
  unfold State.withWord
  rw [h]

/-- Where the consumer side is free, placing a word drops nothing there. -/
theorem withWord_consumer (h : portOfWord w = .consumer) (hbusy : s.txBusy = false) (hphase : s.qPhase = .idle) :
    s.withWord w = { s with qReqs := { word := w, bundle := s.bundle } :: s.qReqs, turns := .consumer :: s.turns } := by
  simp [State.withWord, h, hbusy, hphase]

end

/-- Settles O7: the word is the oldest request of its port, and the planned turn is that port's. -/
theorem placedWordIsTheNextOperationRun : Obligations.PlacedWordIsTheNextOperationRun := by
  intro s w i hdecode hbusy hphase
  have hword := portOfWord_of_decode hdecode
  rw [withFetchWord_of_half, State.onItsPort]
  cases hport : i.port
  case producer =>
    rw [withWord_producer (hword.trans hport), step_planned rfl]
    exact producerStep_of_decode (s := { s with pReqs := { word := w, bundle := s.bundle } :: s.pReqs }) rfl hdecode
  case consumer =>
    rw [withWord_consumer (hword.trans hport) hbusy hphase, step_planned rfl]
    exact consumerStep_of_decode (s := { s with qReqs := { word := w, bundle := s.bundle } :: s.qReqs }) hbusy hphase rfl
      hdecode

end Sys2Proof.Machine
end

section
/-! The CRC units by operation (40_crc.md R104 to R107): the CRC function by kind of algorithm and by width, and the whole
next state of each operation once the value of its register, or of its result, is known. -/

namespace Sys2Proof.Machine

/-! ### The CRC function by kind of algorithm -/

section
variable {w : Nat} {a : CrcAlg w}

theorem crcShift_of_plain (h : a.reflect = false) :
    crcShift a = fun r => if r.getLsbD (w - 1) then (r <<< 1) ^^^ a.poly else r <<< 1 := by
  funext r
  simp [crcShift, h]

theorem crcShift_of_reflected (h : a.reflect = true) :
    crcShift a = fun r => if r.getLsbD 0 then (r >>> 1) ^^^ a.poly.reverse else r >>> 1 := by
  funext r
  simp [crcShift, h, reflectBits]

theorem crcAbsorb_of_plain (h : a.reflect = false) (r : BitVec w) (d : Byte) :
    crcAbsorb a r d = r ^^^ (d.setWidth w <<< (w - 8)) := by
  simp [crcAbsorb, h]

theorem crcAbsorb_of_reflected (h : a.reflect = true) (r : BitVec w) (d : Byte) :
    crcAbsorb a r d = r ^^^ d.setWidth w := by
  simp [crcAbsorb, h]

/-- A register of 8 bits takes the byte in all of them, reflected or not. -/
@[simp] theorem crcAbsorb_byte (a : CrcAlg 8) (r d : Byte) : crcAbsorb a r d = r ^^^ d := by
  cases h : a.reflect
  · simp [crcAbsorb_of_plain h]
  · simp [crcAbsorb_of_reflected h]

/-- R105. -/
theorem crcUpdate_of_plain (h : a.reflect = false) (r : BitVec w) (d : Byte) :
    crcUpdate a r d = (fun r => if r.getLsbD (w - 1) then (r <<< 1) ^^^ a.poly else r <<< 1)^[8] (crcAbsorb a r d) := by
  rw [crcUpdate, crcShifts_eq_iterate, crcShift_of_plain h]

/-- R106. -/
theorem crcUpdate_of_reflected (h : a.reflect = true) (r : BitVec w) (d : Byte) :
    crcUpdate a r d = (fun r => if r.getLsbD 0 then (r >>> 1) ^^^ a.poly.reverse else r >>> 1)^[8] (crcAbsorb a r d) := by
  rw [crcUpdate, crcShifts_eq_iterate, crcShift_of_reflected h]

end

/-! ### The full-frame algorithm by width (R103) -/

section
variable {c : Config}

theorem fcrcInit_of_one (h : c.fcrcBytes = .one) : fcrcInit c = (crcInit c.fcrc8).setWidth 32 := by
  simp [fcrcInit, h]

theorem fcrcInit_of_four (h : c.fcrcBytes = .four) : fcrcInit c = crcInit c.fcrc32 := by
  simp [fcrcInit, h]

theorem fcrcUpdate_of_one (h : c.fcrcBytes = .one) (r : Word) (d : Byte) :
    fcrcUpdate c r d = (crcUpdate c.fcrc8 (r.setWidth 8) d).setWidth 32 := by
  simp [fcrcUpdate, h]

theorem fcrcUpdate_of_four (h : c.fcrcBytes = .four) (r : Word) (d : Byte) :
    fcrcUpdate c r d = crcUpdate c.fcrc32 r d := by
  simp [fcrcUpdate, h]

theorem fcrcFinal_of_one (h : c.fcrcBytes = .one) (r : Word) :
    fcrcFinal c r = (crcFinal c.fcrc8 (r.setWidth 8)).setWidth 32 := by
  simp [fcrcFinal, h]

theorem fcrcFinal_of_four (h : c.fcrcBytes = .four) (r : Word) : fcrcFinal c r = crcFinal c.fcrc32 r := by
  simp [fcrcFinal, h]

theorem fcrcOf_of_one (h : c.fcrcBytes = .one) (bytes : List Byte) :
    fcrcOf c bytes = (crcOf c.fcrc8 bytes).setWidth 32 := by
  simp [fcrcOf, h]

end

/-! ### The operations on the consumer port -/

section
variable {s : State} {d : Byte}

theorem exec_crchReset {r : Byte} (h : s.opPort = .consumer) (hr : crcInit s.cfg.hcrc = r) :
    exec .crchReset s = .next { s with crchReg := r, qOut := s.qOut ++ [.done], ghost := s.ghost ++ [.ok] } :=
  hr ▸ exec_of_port h

theorem exec_crcfReset {r : Word} (h : s.opPort = .consumer) (hr : fcrcInit s.cfg = r) :
    exec .crcfReset s = .next { s with crcfReg := r, qOut := s.qOut ++ [.done], ghost := s.ghost ++ [.ok] } :=
  hr ▸ exec_of_port h

theorem exec_crchUpdate {r : Byte} (h : s.opPort = .consumer) (hr : crcUpdate s.cfg.hcrc s.crchReg d = r) :
    exec (.crchUpdate d) s = .next { s with crchReg := r, qOut := s.qOut ++ [.done], ghost := s.ghost ++ [.ok] } :=
  hr ▸ exec_of_port h

theorem exec_crcfUpdate {r : Word} (h : s.opPort = .consumer) (hr : fcrcUpdate s.cfg s.crcfReg d = r) :
    exec (.crcfUpdate d) s = .next { s with crcfReg := r, qOut := s.qOut ++ [.done], ghost := s.ghost ++ [.ok] } :=
  hr ▸ exec_of_port h

theorem exec_crchFinalize {v : Byte} (h : s.opPort = .consumer) (hv : crcFinal s.cfg.hcrc s.crchReg = v) :
    exec .crchFinalize s = .next { s with qOut := s.qOut ++ [.crcH v], ghost := s.ghost ++ [.ok] } :=
  hv ▸ exec_of_port h

theorem exec_crcfFinalize {v : Word} (h : s.opPort = .consumer) (hv : fcrcFinal s.cfg s.crcfReg = v) :
    exec .crcfFinalize s = .next { s with qOut := s.qOut ++ [.crcF v], ghost := s.ghost ++ [.ok] } :=
  hv ▸ exec_of_port h

end

/-- Settles O10, from what each unit's RESET loads. -/
theorem crcResetLoadsTheInitialValue : Obligations.CrcResetLoadsTheInitialValue := by
  intro s hs
  refine ⟨exec_crchReset hs rfl, fun hfour => exec_crcfReset hs (fcrcInit_of_four hfour),
    fun hone => exec_crcfReset hs (fcrcInit_of_one hone), fun hhw => ⟨exec_crchReset hs ?h, exec_crcfReset hs ?f⟩⟩
  case h => rw [hhw]; decide
  case f => rw [hhw]; decide +kernel

/-- Settles O11: the byte in, and eight plain steps. -/
theorem crcPlainUpdateShiftsLeftEightTimes : Obligations.CrcPlainUpdateShiftsLeftEightTimes := by
  unfold Obligations.CrcPlainUpdateShiftsLeftEightTimes
  refine ⟨fun s d hs => ⟨fun hplain => exec_crchUpdate hs ?h, fun hone hplain => exec_crcfUpdate hs ?one,
    fun hfour hplain => exec_crcfUpdate hs ?four⟩, fun s hs hhw hreg => exec_crchUpdate hs ?hw⟩
  case h => rw [crcUpdate_of_plain hplain, crcAbsorb_byte]
  case one => rw [fcrcUpdate_of_one hone, crcUpdate_of_plain hplain, crcAbsorb_byte]
  case four => rw [fcrcUpdate_of_four hfour, crcUpdate_of_plain hplain, crcAbsorb_of_plain hplain]
  case hw => rw [hhw, hreg]; decide

/-- Operations on the port of the request being served have their effects, one after another. -/
theorem runOps_of_port {ops : List Instr} {s : State} (h : ∀ i ∈ ops, s.opPort = i.port) :
    runOps ops s = .next (ops.foldl effect s) := by
  induction ops generalizing s with
  | nil => rfl
  | cons i ops ih =>
    obtain ⟨hi, hops⟩ := List.forall_mem_cons.1 h
    rw [runOps_cons_of_port ops hi, List.foldl_cons]
    exact ih fun j hj => (effect_opPort s i).trans (hops j hj)

/-- Settles O13: each unit's FINALIZE writes a result alone, and so returns the same one again. -/
theorem crcFinalizeReturnsAndKeepsTheRegister : Obligations.CrcFinalizeReturnsAndKeepsTheRegister := by
  unfold Obligations.CrcFinalizeReturnsAndKeepsTheRegister
  refine ⟨fun s hs => ⟨exec_crchFinalize hs rfl, fun hfour => exec_crcfFinalize hs (fcrcFinal_of_four hfour _),
    fun hone => exec_crcfFinalize hs (fcrcFinal_of_one hone _)⟩, fun s hs => ⟨?h, ?f⟩⟩
  case h => exact ⟨_, _, runOps_of_port (by simp [hs, Instr.port]), rfl, List.append_assoc _ _ _⟩
  case f => exact ⟨_, _, runOps_of_port (by simp [hs, Instr.port]), rfl, List.append_assoc _ _ _⟩

/-- Settles O16: the parameters are those of the configuration, and the values are what the CRC function computes. -/
theorem checksumAlgorithmsHaveTheirCheckValues : Obligations.ChecksumAlgorithmsHaveTheirCheckValues := by
  unfold Obligations.ChecksumAlgorithmsHaveTheirCheckValues
  refine ⟨rfl, rfl, rfl, rfl, ?hcrc, ?fcrc, ?hcrcEmpty, ?fcrcEmpty⟩ <;> decide +kernel

end Sys2Proof.Machine
end

section
/-! The CRC units compute the CRC function (40_crc.md R108, R109). A run of updates changes the unit's register and adds
to the results; the rest of the state stays. -/

namespace Sys2Proof.Machine

/-- `s` after `n` more operations of agent Q that returned no value. -/
def State.completed (s : State) (n : Nat) : State :=
  { s with qOut := s.qOut ++ List.replicate n .done, ghost := s.ghost ++ List.replicate n .ok }

@[simp] theorem completed_zero (s : State) : s.completed 0 = s := by
  simp [State.completed]

theorem completed_succ (s : State) (n : Nat) : s.completed (n + 1) = (s.completed n).reply .consumer .done .ok := by
  simp [State.completed, State.reply, List.replicate_succ']

/-- A run of updates of a unit whose register is written by `put` and updated by `next`. -/
theorem foldl_effect_updates {ρ : Type} {op : Byte → Instr} {put : ρ → State} {next : ρ → Byte → ρ}
    (hop : ∀ r n d, effect ((put r).completed n) (op d) = ((put (next r d)).completed n).reply .consumer .done .ok)
    (bytes : List Byte) (r : ρ) (n : Nat) :
    (bytes.map op).foldl effect ((put r).completed n) = (put (bytes.foldl next r)).completed (bytes.length + n) := by
  induction bytes generalizing r n with
  | nil => simp
  | cons d bytes ih =>
    rw [List.map_cons, List.foldl_cons, hop, ← completed_succ, ih, List.foldl_cons, List.length_cons, Nat.add_assoc,
      Nat.add_comm 1]

section
variable (s : State)

theorem foldl_effect_crchUpdate (bytes : List Byte) (r : Byte) (n : Nat) :
    (bytes.map .crchUpdate).foldl effect (({ s with crchReg := r } : State).completed n) =
      ({ s with crchReg := bytes.foldl (crcUpdate s.cfg.hcrc) r } : State).completed (bytes.length + n) :=
  foldl_effect_updates (op := .crchUpdate) (put := fun r => { s with crchReg := r }) (next := crcUpdate s.cfg.hcrc)
    (fun _ _ _ => rfl) bytes r n

theorem foldl_effect_crcfUpdate (bytes : List Byte) (r : Word) (n : Nat) :
    (bytes.map .crcfUpdate).foldl effect (({ s with crcfReg := r } : State).completed n) =
      ({ s with crcfReg := bytes.foldl (fcrcUpdate s.cfg) r } : State).completed (bytes.length + n) :=
  foldl_effect_updates (op := .crcfUpdate) (put := fun r => { s with crcfReg := r }) (next := fcrcUpdate s.cfg)
    (fun _ _ _ => rfl) bytes r n

variable {s} (hs : s.opPort = .consumer)
include hs

theorem runOps_crchUpdateSeq (bytes : List Byte) :
    runOps (Pseudo.crchUpdateSeq bytes).expand s = .next
      (({ s with crchReg := bytes.foldl (crcUpdate s.cfg.hcrc) s.crchReg } : State).completed bytes.length) := by
  have hfold := foldl_effect_crchUpdate s bytes s.crchReg 0
  rw [completed_zero, Nat.add_zero] at hfold
  rw [Pseudo.expand, runOps_of_port (by simp [hs, Instr.port]), hfold]

theorem runOps_crcfUpdateSeq (bytes : List Byte) :
    runOps (Pseudo.crcfUpdateSeq bytes).expand s = .next
      (({ s with crcfReg := bytes.foldl (fcrcUpdate s.cfg) s.crcfReg } : State).completed bytes.length) := by
  have hfold := foldl_effect_crcfUpdate s bytes s.crcfReg 0
  rw [completed_zero, Nat.add_zero] at hfold
  rw [Pseudo.expand, runOps_of_port (by simp [hs, Instr.port]), hfold]

/-- R108 for CRC_H. -/
theorem runOps_crchCompute (bytes : List Byte) :
    runOps (Pseudo.crchCompute bytes).expand s = .next
      ((({ s with crchReg := crcFold s.cfg.hcrc (crcInit s.cfg.hcrc) bytes } : State).completed (bytes.length + 1)).reply
        .consumer (.crcH (crcOf s.cfg.hcrc bytes)) .ok) := by
  have hfold := foldl_effect_crchUpdate s bytes (crcInit s.cfg.hcrc) 1
  rw [Pseudo.expand, runOps_of_port (by simp [hs, Instr.port, or_imp, forall_and]), List.foldl_append, List.foldl_append]
  exact congrArg (fun t => Host.Outcome.next (effect t .crchFinalize)) hfold

/-- R108 for CRC_F, at the width of the generation. -/
theorem runOps_crcfCompute (bytes : List Byte) :
    runOps (Pseudo.crcfCompute bytes).expand s = .next
      ((({ s with crcfReg := bytes.foldl (fcrcUpdate s.cfg) (fcrcInit s.cfg) } : State).completed (bytes.length + 1)).reply
        .consumer (.crcF (fcrcOf s.cfg bytes)) .ok) := by
  have hfold := foldl_effect_crcfUpdate s bytes (fcrcInit s.cfg) 1
  rw [Pseudo.expand, runOps_of_port (by simp [hs, Instr.port, or_imp, forall_and]), List.foldl_append, List.foldl_append]
  rw [← fcrcFinal_foldl]
  exact congrArg (fun t => Host.Outcome.next (effect t .crcfFinalize)) hfold

end

/-- Where the first piece of a run ends in `t` and the whole in `u`, the second piece leads from `t` to `u` (R109). -/
theorem runOps_rest {a b : List Instr} {s t u : State} (ha : runOps a s = .next t) (hab : runOps (a ++ b) s = .next u) :
    runOps b t = .next u := by
  rwa [runOps_append, ha] at hab

/-- Settles O14, from the whole next state of a computation and of a run of updates. -/
theorem crcUnitComputesTheCrcFunction : Obligations.CrcUnitComputesTheCrcFunction := by
  unfold Obligations.CrcUnitComputesTheCrcFunction
  refine ⟨fun s bytes hs => ⟨⟨_, runOps_crchCompute hs bytes, rfl, rfl⟩, ⟨_, runOps_crcfCompute hs bytes, rfl, rfl⟩⟩,
    fun s a b hs => ⟨?h, ?f⟩⟩
  case h =>
    have hpiece := runOps_crchUpdateSeq hs a
    have hwhole := runOps_crchUpdateSeq hs (a ++ b)
    exact ⟨_, _, hpiece, runOps_rest hpiece (by rwa [Pseudo.expand, List.map_append] at hwhole), rfl, hwhole⟩
  case f =>
    have hpiece := runOps_crcfUpdateSeq hs a
    have hwhole := runOps_crcfUpdateSeq hs (a ++ b)
    exact ⟨_, _, hpiece, runOps_rest hpiece (by rwa [Pseudo.expand, List.map_append] at hwhole), rfl, hwhole⟩

end Sys2Proof.Machine
end

section
/-! A reflected CRC is the mirror image of the plain one (40_crc.md R106): every operation on its register is the other's
between two reversals of the bits. -/

namespace Sys2Proof.Machine

/-! ### Reversed bits -/

section
variable {w : Nat}

theorem reverse_xor (x y : BitVec w) : (x ^^^ y).reverse = x.reverse ^^^ y.reverse := by
  ext i hi
  simp [BitVec.getElem_reverse, BitVec.getMsbD_xor]

theorem reverse_shiftLeft (x : BitVec w) (n : Nat) : (x <<< n).reverse = x.reverse >>> n := by
  ext i hi
  simp [BitVec.getElem_reverse, BitVec.getMsbD_shiftLeft, BitVec.getLsbD_reverse, Nat.add_comm]

theorem reverse_ushiftRight (x : BitVec w) (n : Nat) : (x >>> n).reverse = x.reverse <<< n := by
  rw [← BitVec.reverse_reverse_eq (x := x.reverse <<< n), reverse_shiftLeft, BitVec.reverse_reverse_eq]

/-- A byte in the low bits of a register, mirrored, is the mirrored byte in the top bits. -/
theorem reverse_setWidth_byte (hw : 8 ≤ w) (d : Byte) : (d.setWidth w).reverse = d.reverse.setWidth w <<< (w - 8) := by
  ext i hi
  have hindex : i + 8 - w = i - (w - 8) := by omega
  rw [Bool.eq_iff_iff]
  simp [BitVec.getElem_reverse, BitVec.getLsbD_reverse, hindex]

theorem reverse_injective : Function.Injective (BitVec.reverse : BitVec w → BitVec w) :=
  Function.LeftInverse.injective fun _ => BitVec.reverse_reverse_eq

end

/-! ### The mirror image of an algorithm -/

/-- The algorithm with the same parameters and the other direction of shift. -/
def mirrored {w : Nat} (a : CrcAlg w) : CrcAlg w := { a with reflect := !a.reflect }

section
variable {w : Nat} (a : CrcAlg w)

theorem crcShift_mirrored (r : BitVec w) : crcShift (mirrored a) r = (crcShift a r.reverse).reverse := by
  have htop : r.reverse.getLsbD (w - 1) = r.getLsbD 0 := by
    rw [← BitVec.msb_eq_getLsbD_last, BitVec.msb_reverse]
  have hlow : r.reverse.getLsbD 0 = r.getLsbD (w - 1) := by
    rw [BitVec.getLsbD_reverse, ← BitVec.msb_eq_getLsbD_last, BitVec.msb]
  cases h : a.reflect
  case false =>
    rw [crcShift_of_plain h, crcShift_of_reflected (by simp [mirrored, h])]
    simp only [htop, mirrored, apply_ite BitVec.reverse, reverse_xor, reverse_shiftLeft, BitVec.reverse_reverse_eq]
  case true =>
    rw [crcShift_of_reflected h, crcShift_of_plain (by simp [mirrored, h])]
    simp only [hlow, mirrored, apply_ite BitVec.reverse, reverse_xor, reverse_ushiftRight, BitVec.reverse_reverse_eq]

theorem crcAbsorb_mirrored (hw : 8 ≤ w) (r : BitVec w) (d : Byte) :
    crcAbsorb (mirrored a) r d = (crcAbsorb a r.reverse d.reverse).reverse := by
  cases h : a.reflect
  case false =>
    rw [crcAbsorb_of_plain h, crcAbsorb_of_reflected (by simp [mirrored, h]), ← reverse_setWidth_byte hw, reverse_xor,
      BitVec.reverse_reverse_eq, BitVec.reverse_reverse_eq]
  case true =>
    rw [crcAbsorb_of_reflected h, crcAbsorb_of_plain (by simp [mirrored, h]), reverse_xor, reverse_setWidth_byte hw,
      BitVec.reverse_reverse_eq, BitVec.reverse_reverse_eq]

theorem crcShifts_mirrored (n : Nat) (r : BitVec w) :
    crcShifts (mirrored a) n r = (crcShifts a n r.reverse).reverse := by
  induction n generalizing r with
  | zero => exact BitVec.reverse_reverse_eq.symm
  | succ n ih => rw [crcShifts, ih, crcShift_mirrored a, BitVec.reverse_reverse_eq, crcShifts]

theorem crcUpdate_mirrored (hw : 8 ≤ w) (r : BitVec w) (d : Byte) :
    crcUpdate (mirrored a) r d = (crcUpdate a r.reverse d.reverse).reverse := by
  rw [crcUpdate, crcShifts_mirrored a, crcAbsorb_mirrored a hw, BitVec.reverse_reverse_eq, crcUpdate]

end

/-- Settles O12: the byte in, and eight reflected steps; and the mirror image. -/
theorem crcReflectedUpdateShiftsRightEightTimes : Obligations.CrcReflectedUpdateShiftsRightEightTimes := by
  unfold Obligations.CrcReflectedUpdateShiftsRightEightTimes
  refine ⟨fun s d hs => ⟨fun hfour hrefl => exec_crcfUpdate hs ?four, fun hone hrefl => exec_crcfUpdate hs ?one,
    fun hrefl => exec_crchUpdate hs ?h⟩, ?poly, fun s hs hhw hreg => exec_crcfUpdate hs ?hw,
    fun w a r d hw => crcUpdate_mirrored { a with reflect := false } hw r d⟩
  case four => rw [fcrcUpdate_of_four hfour, crcUpdate_of_reflected hrefl, crcAbsorb_of_reflected hrefl]
  case one => rw [fcrcUpdate_of_one hone, crcUpdate_of_reflected hrefl, crcAbsorb_byte]
  case h => rw [crcUpdate_of_reflected hrefl, crcAbsorb_byte]
  case poly => decide +kernel
  case hw => rw [hhw, hreg]; decide +kernel

end Sys2Proof.Machine
end

section
/-! A single-bit error is seen (40_crc.md R112). Every algorithm whose polynomial has the term 1 loses no bit of the
register in a shift, so registers that differ once differ to the end. -/

namespace Sys2Proof.Machine

section
variable {w : Nat} {a : CrcAlg w}

/-- After a plain shift the low bit is the top bit shifted out. -/
theorem getLsbD_crcShift_zero (hplain : a.reflect = false) (hpoly : a.poly.getLsbD 0 = true) (r : BitVec w) :
    (crcShift a r).getLsbD 0 = r.getLsbD (w - 1) := by
  simp only [crcShift_of_plain hplain]
  split
  case isTrue htop => rw [htop, BitVec.getLsbD_xor, hpoly]; simp
  case isFalse htop => rw [Bool.eq_false_of_not_eq_true htop]; simp

theorem shiftLeft_one_injective_of_top {x y : BitVec w} (hw : 0 < w) (htop : x.getLsbD (w - 1) = y.getLsbD (w - 1))
    (h : x <<< 1 = y <<< 1) : x = y := by
  refine BitVec.eq_of_getLsbD_eq fun i hi => ?_
  by_cases hlast : i = w - 1
  case pos => rw [hlast, htop]
  case neg =>
    have hbit := congrArg (BitVec.getLsbD · (i + 1)) h
    simpa [BitVec.getLsbD_shiftLeft, hi, show i + 1 < w by omega] using hbit

theorem crcShift_injective_of_plain (hw : 0 < w) (hplain : a.reflect = false) (hpoly : a.poly.getLsbD 0 = true) :
    Function.Injective (crcShift a) := by
  intro x y h
  have htop : x.getLsbD (w - 1) = y.getLsbD (w - 1) := by
    rw [← getLsbD_crcShift_zero hplain hpoly, h, getLsbD_crcShift_zero hplain hpoly]
  refine shiftLeft_one_injective_of_top hw htop ?_
  simp only [crcShift_of_plain hplain, htop] at h
  split at h
  · exact (BitVec.xor_left_inj _).1 h
  · exact h

/-- Whichever way it shifts, a step can be undone. -/
theorem crcShift_injective (hw : 0 < w) (hpoly : a.poly.getLsbD 0 = true) : Function.Injective (crcShift a) := by
  cases hrefl : a.reflect
  case false => exact crcShift_injective_of_plain hw hrefl hpoly
  case true =>
    have hmirror : Function.Injective (crcShift (mirrored a)) :=
      crcShift_injective_of_plain hw (by simp [mirrored, hrefl]) hpoly
    intro x y h
    apply reverse_injective
    apply hmirror
    rw [crcShift_mirrored a, crcShift_mirrored a, BitVec.reverse_reverse_eq, BitVec.reverse_reverse_eq, h]

theorem setWidth_byte_injective (hw : 8 ≤ w) : Function.Injective (BitVec.setWidth w : Byte → BitVec w) := by
  intro d e h
  simpa [hw] using congrArg (BitVec.setWidth 8) h

theorem crcAbsorb_injective_byte (hw : 8 ≤ w) (r : BitVec w) : Function.Injective (crcAbsorb a r) := by
  intro d e h
  cases hrefl : a.reflect
  case false =>
    rw [crcAbsorb_of_plain hrefl, crcAbsorb_of_plain hrefl, BitVec.xor_right_inj, ← d.reverse_reverse_eq,
      ← e.reverse_reverse_eq, ← reverse_setWidth_byte hw, ← reverse_setWidth_byte hw] at h
    exact reverse_injective (setWidth_byte_injective hw (reverse_injective h))
  case true =>
    rw [crcAbsorb_of_reflected hrefl, crcAbsorb_of_reflected hrefl, BitVec.xor_right_inj] at h
    exact setWidth_byte_injective hw h

theorem crcAbsorb_injective_register (d : Byte) : Function.Injective fun r => crcAbsorb a r d := by
  intro x y h
  simp only [crcAbsorb] at h
  split at h <;> exact (BitVec.xor_left_inj _).1 h

section
variable (hw : 8 ≤ w) (hpoly : a.poly.getLsbD 0 = true)
include hw hpoly

theorem crcShifts_injective (n : Nat) : Function.Injective (crcShifts a n) := by
  intro x y h
  rw [crcShifts_eq_iterate, crcShifts_eq_iterate] at h
  exact (crcShift_injective (by omega) hpoly).iterate n h

/-- Registers that differ still differ after the same bytes. -/
theorem crcFold_injective (bytes : List Byte) : Function.Injective fun r => crcFold a r bytes := by
  induction bytes with
  | nil => exact Function.injective_id
  | cons d bytes ih =>
    exact fun x y h => crcAbsorb_injective_register d (crcShifts_injective hw hpoly 8 (ih h))

theorem crcOf_ne_of_byte_ne {d d' : Byte} (hne : d' ≠ d) (before after : List Byte) :
    crcOf a (before ++ [d'] ++ after) ≠ crcOf a (before ++ [d] ++ after) := by
  intro h
  have hfold : crcFold a (crcInit a) (before ++ [d'] ++ after) = crcFold a (crcInit a) (before ++ [d] ++ after) :=
    (BitVec.xor_left_inj _).1 h
  simp only [crcFold_append] at hfold
  have hupdate := crcFold_injective hw hpoly after hfold
  exact hne (crcAbsorb_injective_byte hw _ (crcShifts_injective hw hpoly 8 hupdate))

end
end

theorem xor_bit_ne (d : Byte) {k : Nat} (hk : k < 8) : d ^^^ (1#8 <<< k) ≠ d := by
  intro h
  simpa [hk] using congrArg (BitVec.getLsbD · k) h

/-- Settles O15: the two bytes differ, and both polynomials have the term 1. -/
theorem singleBitErrorChangesTheChecksum : Obligations.SingleBitErrorChangesTheChecksum :=
  fun before after d _ hk =>
    ⟨crcOf_ne_of_byte_ne (by decide) (by decide) (xor_bit_ne d hk) before after,
      crcOf_ne_of_byte_ne (by decide) (by decide) (xor_bit_ne d hk) before after⟩

end Sys2Proof.Machine
end

section
/-! The 8-bit full-frame checksum (40_crc.md R113). The byte FINALIZE returns, fed in next, meets the register and leaves
XOROUT alone, whatever came before; so the checksum of what follows forgets the header. -/

namespace Sys2Proof.Machine

/-- An 8-bit algorithm fed its own checksum is left with a residue that its parameters give. -/
theorem crcUpdate_crcFinal (a : CrcAlg 8) (r : Byte) : crcUpdate a r (crcFinal a r) = crcShifts a 8 a.xorout := by
  rw [crcUpdate, crcAbsorb_byte, crcFinal, ← BitVec.xor_assoc, BitVec.xor_self, BitVec.zero_xor]

theorem crcFold_append_crcOf (a : CrcAlg 8) (bytes : List Byte) :
    crcFold a (crcInit a) (bytes ++ [crcOf a bytes]) = crcShifts a 8 a.xorout := by
  rw [crcFold_append, crcFold_cons, crcFold_nil, crcOf, crcUpdate_crcFinal]

/-- The residue of `HCRC`. -/
theorem hcrcAlg_residue : crcShifts Config.hcrcAlg 8 Config.hcrcAlg.xorout = 0x42 := by decide

theorem fCrc_withChecksums {c : Config} (f : Frame) (hone : c.fcrcBytes = .one) (hf : c.fcrc8 = Config.hcrcAlg)
    (hh : c.hcrc = Config.hcrcAlg) :
    (withChecksums c f).fCrc = (crcFinal Config.hcrcAlg (crcFold Config.hcrcAlg 0x42 (usedPayload f))).setWidth 32 := by
  have hcovered : (withChecksums c f).fCrc =
      fcrcOf c (headerBytes c f ++ [crcOf Config.hcrcAlg (headerBytes c f)] ++ usedPayload f) := by rw [← hh]; rfl
  rw [hcovered, fcrcOf_of_one hone, hf, crcOf, crcFold_append, crcFold_append_crcOf, hcrcAlg_residue]

/-- Settles O17, from the residue the header leaves. -/
theorem oneByteFullChecksumIgnoresTheHeader : Obligations.OneByteFullChecksumIgnoresTheHeader := by
  unfold Obligations.OneByteFullChecksumIgnoresTheHeader
  refine ⟨fun bytes => (crcFold_append_crcOf _ bytes).trans hcrcAlg_residue, fun c f hone hf hh =>
    ⟨fCrc_withChecksums f hone hf hh, fun hpayload => ?payload⟩⟩
  case payload => rw [fCrc_withChecksums f hone hf hh, hpayload]; decide +kernel

end Sys2Proof.Machine
end

section
/-! The FIFO by operation (41_fifo.md R130 to R133, R135): what each answers in each state of the cursors, and what it does
to the queue of the bytes held. -/

namespace Sys2Proof.Machine

/-! ### The answers -/

section
variable {s : State} (d : Byte)

theorem full_iff_held : s.posIn + 1 = s.posOut ↔ s.held = Config.fifoUsable := by
  rw [← fifoFull_iff_held, fifoFull, nextCursor_eq, beq_iff_eq]

theorem push_of_full (h : s.held = Config.fifoUsable) : s.push d = s.reply .producer (.pushed false) .fifoFull := by
  obtain ⟨-, hpush⟩ | ⟨hroom, -⟩ := push_cases s d
  · exact hpush
  · exact absurd h hroom

theorem push_of_room (h : s.held ≠ Config.fifoUsable) :
    s.push d = ({ s with ring := s.ring.store s.posIn.toNat d, posIn := s.posIn + 1 } : State).reply .producer
      (.pushed true) .ok := by
  obtain ⟨hfull, -⟩ | ⟨-, hpush⟩ := push_cases s d
  · exact absurd hfull h
  · exact hpush

theorem exec_fifoPush (h : s.opPort = .producer) : exec (.fifoPush d) s = .next (s.push d) := exec_of_port h

theorem exec_fifoPop (h : s.opPort = .consumer) : exec .fifoPop s = .next s.pop := exec_of_port h

variable (s) in
theorem popEnd_eq (b : Byte) :
    s.popEnd b = ({ s with posOut := s.posOut + 1 } : State).reply .consumer (.popped (some b)) .ok := by
  rw [State.popEnd, nextCursor_eq]

theorem fifoCount_toNat (p q : Cursor) : (fifoCount p q).toNat = (p.toNat + 256 - q.toNat) % 256 := by
  rw [fifoCount_eq, cursor_sub_toNat]

end

/-- Settles O18, by whether the FIFO is full; on the consumer port a PUSH is a port violation. -/
theorem pushStoresOrDropsTheByte : Obligations.PushStoresOrDropsTheByte := by
  unfold Obligations.PushStoresOrDropsTheByte
  refine ⟨fun s d hport => ⟨fun hfull => ?full, fun hroom => ?room⟩, fun s d hport => ?refused⟩
  case full =>
    rw [exec_fifoPush d hport, push_of_full d (full_iff_held.1 hfull)]
    rfl
  case room =>
    rw [exec_fifoPush d hport, push_of_room d (mt full_iff_held.2 hroom)]
    rfl
  case refused =>
    have hwrong : s.opPort ≠ (Instr.fifoPush d).port := hport.trans_ne nofun
    exact ⟨_, exec_of_wrong_port hwrong, portViolation_block s _, (portViolation_out s _).1 hport⟩

/-- Settles O19: the whole POP by whether the FIFO is empty, then its micro-steps by the phase reached. -/
theorem popReturnsTheOldestByteOrNone : Obligations.PopReturnsTheOldestByteOrNone := by
  unfold Obligations.PopReturnsTheOldestByteOrNone
  refine ⟨fun s hport => ⟨fun hempty => ?empty, fun hheld => ?held⟩, fun s => rfl,
    fun s p hphase => ⟨microStep_popRead_empty hphase, microStep_popRead_nonempty hphase⟩,
    fun s hphase => microStep_popNonEmpty hphase, fun s b hphase => ?ends⟩
  case empty =>
    rw [exec_fifoPop hport, pop_of_empty hempty]
    rfl
  case held =>
    rw [exec_fifoPop hport, pop_of_held (held_pos_iff.2 hheld), popEnd_eq]
    rfl
  case ends =>
    rw [microStep_popHave hphase, popEnd_eq]
    rfl

/-- Settles O20: the count is the FIFO's function of the `pos_in` read and `S.pos_out`. -/
theorem availableReturnsTheCount : Obligations.AvailableReturnsTheCount := by
  unfold Obligations.AvailableReturnsTheCount
  refine ⟨fun s hport => ⟨_, fifoCount_toNat _ _, exec_of_port hport⟩, fun s => rfl, fun s p hphase => ?micro⟩
  exact ⟨_, fifoCount_toNat _ _, microStep_availRead hphase⟩

/-! ### The queue of the bytes held -/

section
variable {s : State}

@[simp] theorem reply_contents (s : State) (p : Port) (r : Result) (c : OutcomeCode) :
    (s.reply p r c).contents = s.contents := by
  cases p <;> rfl

@[simp] theorem length_contents (s : State) : s.contents.length = s.held := by
  simp [State.contents]

theorem contents_eq_nil_iff : s.contents = [] ↔ s.posIn = s.posOut := by
  rw [← List.length_eq_zero_iff, length_contents, ← fifoEmpty_iff_held, fifoEmpty, beq_iff_eq]

/-- The first slot held is the one FIFO.POP reads. -/
theorem slotAt_zero (s : State) : s.slotAt 0 = s.posOut.toNat := Nat.mod_eq_of_lt (cursor_lt s.posOut)

/-- A store behind the bytes held keeps them, and its byte is the last one. -/
theorem contents_store (d : Byte) (h : s.held ≠ Config.fifoUsable) :
    ({ s with ring := s.ring.store s.posIn.toNat d, posIn := s.posIn + 1 } : State).contents = s.contents ++ [d] := by
  have hkept : ∀ j ∈ List.range s.held,
      (s.ring.store s.posIn.toNat d).load .ring (s.slotAt j) = s.ring.load .ring (s.slotAt j) := fun j hj =>
    Memory.load_store_other .ring s.ring d (slotAt_ne_posIn (List.mem_range.1 hj))
  have hlast : (s.ring.store s.posIn.toNat d).load .ring (s.slotAt s.held) = d := by
    rw [slotAt_held, Memory.load_store_same]
  rw [State.contents, held_push _ h, List.range_succ, List.map_append]
  exact congrArg₂ (· ++ [·]) (List.map_congr_left hkept) hlast

/-- The bytes held are the oldest one and those behind it. -/
theorem contents_of_held (h : 0 < s.held) :
    s.contents = s.oldestByte :: ({ s with posOut := s.posOut + 1 } : State).contents := by
  rw [State.contents, ← held_pop h, List.range_succ_eq_map, List.map_cons, List.map_map, slotAt_zero]
  refine congrArg (s.oldestByte :: ·) (List.map_congr_left fun j _ => ?_)
  exact congrArg (s.ring.load .ring) (slotAt_pop s j).symm

theorem push_contents (d : Byte) (h : s.held ≠ Config.fifoUsable) : (s.push d).contents = s.contents ++ [d] := by
  rw [push_of_room d h, reply_contents, contents_store d h]

theorem contents_eq_oldest_cons_pop (h : 0 < s.held) : s.contents = s.oldestByte :: s.pop.contents := by
  rw [pop_of_held h, popEnd_eq, reply_contents, ← contents_of_held h]

end

/-- Settles O21: 255 bytes held are the FIFO's usable slots. -/
theorem pushFailsExactlyWhen255BytesAreHeld : Obligations.PushFailsExactlyWhen255BytesAreHeld := by
  unfold Obligations.PushFailsExactlyWhen255BytesAreHeld
  refine fun s d hport => ⟨_, exec_fifoPush d hport, fun hfull => ?full, fun hroom => ?room⟩
  case full => rw [push_of_full d ((length_contents s).symm.trans hfull)]; rfl
  case room => rw [push_of_room d ((length_contents s).symm.trans_ne hroom)]; rfl

/-- Settles O22, from what a PUSH and a POP do to the queue. -/
theorem fifoIsAQueueOfTheBytesHeld : Obligations.FifoIsAQueueOfTheBytesHeld := by
  unfold Obligations.FifoIsAQueueOfTheBytesHeld
  refine ⟨fun s => ⟨contents_eq_nil_iff, length_contents s, held_le s⟩, fun s t d hport hroom hexec => ?push,
    fun s t b rest hport hcontents hexec => ?pop⟩
  case push =>
    rw [exec_fifoPush d hport] at hexec
    cases hexec
    exact push_contents d ((length_contents s).symm.trans_lt hroom).ne
  case pop =>
    have hheld : 0 < s.held := by rw [← length_contents, hcontents]; exact Nat.succ_pos _
    rw [contents_eq_oldest_cons_pop hheld] at hcontents
    rw [exec_fifoPop hport] at hexec
    cases hexec
    cases hcontents
    exact ⟨rfl, by rw [pop_of_held hheld]; rfl⟩

end Sys2Proof.Machine
end

section
/-! The FIFO returns the bytes pushed in order (41_fifo.md R134, 20_memory.md R61): a run is taken operation by operation,
each put before the run that follows it. -/

namespace Sys2Proof.Machine

/-- The operations of the FIFO unit (30_encoding.md R72). -/
abbrev FifoOperation (i : Instr) : Prop := i = .fifoPop ∨ i = .fifoAvailable ∨ ∃ d, i = .fifoPush d

/-- From `s` to `t` the agents got results `ps` and `qs` of the operations `ops`, and no byte was lost, added or moved before
another: R134, with the results named. -/
def InOrder (ops : List Instr) (s t : State) : Prop :=
  ∃ ps qs, t.pOut = s.pOut ++ ps ∧ t.qOut = s.qOut ++ qs ∧
    s.contents ++ pushedBytes ops ps = poppedBytes qs ++ t.contents

section
variable {ops : List Instr} {s t : State}

theorem inOrder_nil (s : State) : InOrder [] s s :=
  ⟨[], [], (List.append_nil _).symm, (List.append_nil _).symm, List.append_nil _⟩

/-- A PUSH before a run: its byte stands before the run's, unless it was dropped. -/
theorem inOrder_cons_push {d : Byte} (h : InOrder ops (s.push d) t) : InOrder (.fifoPush d :: ops) s t := by
  obtain ⟨ps, qs, hp, hq, hbytes⟩ := h
  by_cases hfull : s.held = Config.fifoUsable
  case pos =>
    rw [push_of_full d hfull] at hp hq hbytes
    rw [reply_contents] at hbytes
    exact ⟨.pushed false :: ps, qs, by simpa using hp, hq, hbytes⟩
  case neg =>
    rw [push_contents d hfull, List.append_assoc] at hbytes
    rw [push_of_room d hfull] at hp hq
    exact ⟨.pushed true :: ps, qs, by simpa using hp, hq, hbytes⟩

/-- A POP before a run: it returns the byte that stands first, if any is held. -/
theorem inOrder_cons_pop (h : InOrder ops s.pop t) : InOrder (.fifoPop :: ops) s t := by
  obtain ⟨ps, qs, hp, hq, hbytes⟩ := h
  obtain ⟨-, hpop⟩ | ⟨hheld, hpop⟩ := pop_cases s
  case inl =>
    rw [hpop] at hp hq hbytes
    exact ⟨ps, .popped none :: qs, hp, by simpa using hq, hbytes⟩
  case inr =>
    rw [hpop] at hp hq
    refine ⟨ps, .popped (some s.oldestByte) :: qs, hp, by simpa using hq, ?_⟩
    rw [contents_eq_oldest_cons_pop hheld]
    exact congrArg (s.oldestByte :: ·) hbytes

/-- An AVAILABLE before a run moves no byte. -/
theorem inOrder_cons_available {p : Cursor} (h : InOrder ops (s.available p) t) : InOrder (.fifoAvailable :: ops) s t := by
  obtain ⟨ps, qs, hp, hq, hbytes⟩ := h
  exact ⟨ps, .count (fifoCount p s.posOut) :: qs, hp, by simpa using hq, hbytes⟩

/-- An operation on the port that admits it has its effect, and the others go on from there. -/
theorem runAdmitted_cons (i : Instr) (ops : List Instr) (s : State) :
    runAdmitted (i :: ops) s = runAdmitted ops (effect (s.onItsPort i) i) := by
  rw [runAdmitted, exec_of_port rfl]
  rfl

theorem runAdmitted_inOrder (hops : ∀ i ∈ ops, FifoOperation i) (hrun : runAdmitted ops s = .next t) :
    InOrder ops s t := by
  induction ops generalizing s with
  | nil =>
    cases hrun
    exact inOrder_nil _
  | cons i ops ih =>
    obtain ⟨hi, hops⟩ := List.forall_mem_cons.1 hops
    rw [runAdmitted_cons] at hrun
    have hrest := ih hops hrun
    obtain rfl | rfl | ⟨d, rfl⟩ := hi
    · exact (inOrder_cons_pop hrest :)
    · exact (inOrder_cons_available hrest :)
    · exact (inOrder_cons_push hrest :)

end

/-- Settles O23: what stands behind the results at the start is the results of the run. -/
theorem fifoReturnsThePushedBytesInOrder : Obligations.FifoReturnsThePushedBytesInOrder := by
  unfold Obligations.FifoReturnsThePushedBytesInOrder
  intro ops s t hops hrun
  obtain ⟨ps, qs, hp, hq, hbytes⟩ := runAdmitted_inOrder hops hrun
  rwa [hp, hq, List.drop_left, List.drop_left]

end Sys2Proof.Machine
end

section
/-! The byte lanes of a value (00_scope.md R9, R10): writing a lane sets one byte of the little-endian expansion, and a value
is its lanes. -/

namespace Sys2Proof.Machine

section
variable {w : Nat} {v v' : BitVec w} {j k n : Nat}

theorem getLsbD_setLane (v : BitVec w) (k : Nat) (d : Byte) {b : Nat} (hb : b < w) :
    (setLane v k d).getLsbD b = if 8 * k ≤ b ∧ b < 8 * k + 8 then d.getLsbD (b - 8 * k) else v.getLsbD b := by
  have hlane : (0xFF : BitVec w).getLsbD (b - 8 * k) = decide (b - 8 * k < 8) := by
    have hones : (0xFF : BitVec w) = BitVec.ofNat w (2 ^ 8 - 1) := rfl
    have hin : b - 8 * k < w := by omega
    rw [hones, BitVec.getLsbD_ofNat, Nat.testBit_two_pow_sub_one, decide_eq_true hin, Bool.true_and]
  simp only [setLane, BitVec.getLsbD_or, BitVec.getLsbD_and, BitVec.getLsbD_not, BitVec.getLsbD_shiftLeft,
    BitVec.getLsbD_setWidth, hb, hlane]
  by_cases hlow : 8 * k ≤ b
  · by_cases hhigh : b < 8 * k + 8
    · have : b - 8 * k < 8 := by omega
      have : b - 8 * k < w := by omega
      simp [*, hlow.not_gt]
    · have : ¬ b - 8 * k < 8 := by omega
      have : d.getLsbD (b - 8 * k) = false := BitVec.getLsbD_of_ge _ _ (by omega)
      simp [*]
  · simp [hlow, not_le.1 hlow]

/-- The lane written holds the byte; every other lane is as before. -/
theorem byteLane_setLane (v : BitVec w) (d : Byte) (hk : 8 * k + 8 ≤ w) (hj : 8 * j + 8 ≤ w) :
    byteLane (setLane v k d) j = if j = k then d else byteLane v j := by
  refine BitVec.eq_of_getLsbD_eq fun b hb => ?_
  simp only [byteLane, BitVec.getLsbD_extractLsb', hb, decide_true, Bool.true_and]
  rw [getLsbD_setLane v k d (by omega)]
  split_ifs with hin heq heq
  · subst heq; simp
  · omega
  · omega
  · simp [hb]

theorem getElem?_leBytes (v : BitVec w) (hk : k < n) : (leBytes v n)[k]? = some (byteLane v k) := by
  simp [leBytes, hk]

/-- Values that spell the same bytes have the same bits there. -/
theorem getLsbD_eq_of_leBytes_eq {b : Nat} (h : leBytes v n = leBytes v' n) (hb : b < 8 * n) :
    v.getLsbD b = v'.getLsbD b := by
  have hlane : byteLane v (b / 8) = byteLane v' (b / 8) := by
    have hk : b / 8 < n := by omega
    simpa [getElem?_leBytes _ hk] using congrArg (·[b / 8]?) h
  have hbit := congrArg (BitVec.getLsbD · (b % 8)) hlane
  have hb8 : b % 8 < 8 := Nat.mod_lt _ (by decide)
  simpa [byteLane, hb8, Nat.div_add_mod] using hbit

/-- A value that has `d` in lane `k`, and another value's lanes else, spells the other's bytes with byte `k` set. -/
theorem leBytes_eq_set {d : Byte} (hk : byteLane v' k = d)
    (hother : ∀ j < n, j ≠ k → byteLane v' j = byteLane v j) : leBytes v' n = (leBytes v n).set k d := by
  refine List.ext_getElem (by simp) fun j hj _ => ?_
  rw [length_leBytes] at hj
  rw [List.getElem_set]
  split_ifs with heq
  · subst heq; simp [leBytes, hk]
  · simp [leBytes, hother j hj (Ne.symm heq)]

theorem leField_setLane (d : Byte) (hw : w % 8 = 0) (hk : k < fieldBytes w) :
    leField (setLane v k d) = (leField v).set k d := by
  have hlanes : 8 * fieldBytes w = w := by unfold fieldBytes; omega
  refine leBytes_eq_set (by simp [byteLane_setLane v d (j := k) (k := k) (by omega) (by omega)]) fun j hj hne => ?_
  rw [byteLane_setLane v d (by omega) (by omega), if_neg hne]

theorem leField_injective (hw : w % 8 = 0) (h : leField v = leField v') : v = v' :=
  BitVec.eq_of_getLsbD_eq fun b hb => getLsbD_eq_of_leBytes_eq h (by unfold fieldBytes; omega)

end

/-! ### The trailing checksum -/

section
variable {c : Config} {v v' : Word} {j k : Nat}

theorem getLsbD_mask (n : FcrcBytes) (b : Nat) : n.mask.getLsbD b = decide (b < 8 * n.toNat) := by
  have hmask : n.mask = BitVec.ofNat 32 (2 ^ (8 * n.toNat) - 1) := by cases n <;> decide
  have hn := fcrcBytes_toNat_le n
  rw [hmask, BitVec.getLsbD_ofNat, Nat.testBit_two_pow_sub_one, Bool.and_eq_right_iff_imp, decide_eq_true_iff,
    decide_eq_true_iff]
  omega

/-- The checksum's mask keeps the lanes the generation has. -/
theorem byteLane_masked (n : FcrcBytes) (v : Word) (hj : j < n.toNat) : byteLane (v &&& n.mask) j = byteLane v j := by
  refine BitVec.eq_of_getLsbD_eq fun b hb => ?_
  have hin : 8 * j + b < 8 * n.toNat := by omega
  simp [byteLane, getLsbD_mask, hin]

theorem byteLane_storeFcrc (rx : Frame) (d : Byte) (hk : k < c.fcrcBytes.toNat) (hj : j < c.fcrcBytes.toNat) :
    byteLane (storeFcrc c rx k d).fCrc j = if j = k then d else byteLane rx.fCrc j := by
  have hn := fcrcBytes_toNat_le c.fcrcBytes
  rw [storeFcrc, byteLane_masked _ _ hj, byteLane_setLane _ _ (by omega) (by omega)]

theorem leBytes_storeFcrc (rx : Frame) (d : Byte) (hk : k < c.fcrcBytes.toNat) :
    leBytes (storeFcrc c rx k d).fCrc c.fcrcBytes.toNat = (leBytes rx.fCrc c.fcrcBytes.toNat).set k d :=
  leBytes_eq_set (by rw [byteLane_storeFcrc rx d hk hk, if_pos rfl])
    fun j hj hne => by rw [byteLane_storeFcrc rx d hk hj, if_neg hne]

/-- A checksum of the generation's width is its `FCRC_BYTES` lanes. -/
theorem eq_of_leBytes_fCrc_eq (n : FcrcBytes) (hv : v &&& n.mask = v) (hv' : v' &&& n.mask = v')
    (h : leBytes v n.toNat = leBytes v' n.toNat) : v = v' := by
  refine BitVec.eq_of_getLsbD_eq fun b _ => ?_
  rw [← hv, ← hv', BitVec.getLsbD_and, BitVec.getLsbD_and, getLsbD_mask]
  by_cases hb : b < 8 * n.toNat
  · rw [getLsbD_eq_of_leBytes_eq h hb]
  · simp [hb]

end

end Sys2Proof.Machine
end

section
/-! The parser by position (42_datalink_rx.md R162): which bytes are accepted, what an accepted one stores, and the whole next
state of RX.HANDLE_BYTE, whether the frame goes on, ends or is given up. -/

namespace Sys2Proof.Machine

/-! ### What a header byte stores (R164) -/

theorem inField_add {start bits k : Nat} (hk : k < fieldBytes bits) : inField start bits (start + k) = true := by
  simp [inField, hk]

/-- No position behind a field, present or not, is in it. -/
theorem inField_of_behind {present : Bool} {start bits i : Nat} (h : start + sizeIf present (fieldBytes bits) ≤ i) :
    (present && inField start bits i) = false := by
  cases present
  case false => rfl
  case true => simpa [inField, sizeIf] using fun _ => h

section
variable {c : Config} {i k : Nat}

/-- The fields of the header cover its positions (30_encoding.md R81). -/
theorem header_position_cases (hlow : srcAt c ≤ i) (hhigh : i < hcrcAt c) :
    (c.hasSrc = true ∧ ∃ k < 2, i = srcAt c + k) ∨ (∃ k < 2, i = dstAt c + k) ∨
    (c.hasCmd = true ∧ ∃ k < 2, i = cmdAt c + k) ∨ i = lenAt c := by
  obtain ⟨-, hdst, hcmd, hlen, hhcrc, -⟩ := wire_offsets c
  by_cases hbeforeDst : i < dstAt c
  · have hsrc : c.hasSrc = true := by
      cases h : c.hasSrc <;> simp [h] at hdst ⊢
      omega
    rw [hsrc, Bool.toNat_true] at hdst
    exact .inl ⟨hsrc, i - srcAt c, by omega, by omega⟩
  by_cases hbeforeCmd : i < cmdAt c
  · exact .inr (.inl ⟨i - dstAt c, by omega, by omega⟩)
  by_cases hbeforeLen : i < lenAt c
  · have hcmd' : c.hasCmd = true := by
      cases h : c.hasCmd <;> simp [h] at hlen ⊢
      omega
    rw [hcmd', Bool.toNat_true] at hlen
    exact .inr (.inr (.inl ⟨hcmd', i - cmdAt c, by omega, by omega⟩))
  · exact .inr (.inr (.inr (by omega)))

variable (rx : Frame) (d : Byte)

theorem storeHeader_src (h : c.hasSrc = true) (hk : k < 2) :
    storeHeader c rx (srcAt c + k) d = { rx with src := setLane rx.src k d } := by
  rw [storeHeader, h, Bool.true_and, if_pos (inField_add hk), Nat.add_sub_cancel_left]

theorem storeHeader_dst (hk : k < 2) :
    storeHeader c rx (dstAt c + k) d = { rx with dst := setLane rx.dst k d } := by
  have hsrc : (c.hasSrc && inField (srcAt c) Config.addrBits (dstAt c + k)) = false :=
    inField_of_behind (Nat.le_add_right _ _)
  rw [storeHeader, hsrc, if_neg Bool.false_ne_true, if_pos (inField_add hk), Nat.add_sub_cancel_left]

theorem storeHeader_behind_dst (hi : cmdAt c ≤ i) :
    storeHeader c rx i d = if c.hasCmd && inField (cmdAt c) Config.cmdBits i then
        { rx with cmd := setLane rx.cmd (i - cmdAt c) d }
      else if inField (lenAt c) Config.payloadLenBits i then
        { rx with payloadLen := setLane rx.payloadLen (i - lenAt c) d }
      else rx := by
  have hsrc : (c.hasSrc && inField (srcAt c) Config.addrBits i) = false :=
    inField_of_behind ((Nat.le_add_right _ _).trans hi)
  have hdst : inField (dstAt c) Config.addrBits i = false := inField_of_behind (present := true) hi
  rw [storeHeader, hsrc, if_neg Bool.false_ne_true, hdst, if_neg Bool.false_ne_true]

theorem storeHeader_cmd (h : c.hasCmd = true) (hk : k < 2) :
    storeHeader c rx (cmdAt c + k) d = { rx with cmd := setLane rx.cmd k d } := by
  rw [storeHeader_behind_dst rx d (Nat.le_add_right _ _), h, Bool.true_and, if_pos (inField_add hk),
    Nat.add_sub_cancel_left]

theorem storeHeader_len : storeHeader c rx (lenAt c) d = { rx with payloadLen := d } := by
  have hlen : inField (lenAt c) Config.payloadLenBits (lenAt c) = true := inField_add (k := 0) (by decide)
  have hcmd : (c.hasCmd && inField (cmdAt c) Config.cmdBits (lenAt c)) = false := inField_of_behind le_rfl
  rw [storeHeader_behind_dst (i := lenAt c) rx d (Nat.le_add_right _ _), hcmd, if_neg Bool.false_ne_true, if_pos hlen,
    Nat.sub_self, setLane_byte]

/-- A marker position stores nothing (R162). -/
theorem storeHeader_marker (hi : i < srcAt c) : storeHeader c rx i d = rx := by
  have hdst : srcAt c ≤ dstAt c := Nat.le_add_right _ _
  have hcmd : dstAt c ≤ cmdAt c := Nat.le_add_right _ _
  have hlen : cmdAt c ≤ lenAt c := Nat.le_add_right _ _
  have hbefore : ∀ {start bits : Nat}, srcAt c ≤ start → inField start bits i = false := fun h => by
    simp [inField, hi.trans_le h]
  simp [storeHeader, hbefore, hdst, hdst.trans hcmd, hdst.trans (hcmd.trans hlen)]

end

/-! ### The bytes that are accepted, and what they store -/

/-- Whether the byte `d` at position `i` is accepted: the markers and the header checksum must match, every other byte is
taken unchecked (R163 to R167). -/
structure Accepts (c : Config) (i : Nat) (rx : Frame) (d : Byte) : Prop where
  marker0 : c.markers = true → i = 0 → d = c.start0
  marker1 : c.markers = true → i = 1 → d = c.start1
  check : i = hcrcAt c → crcOf c.hcrc (headerBytes c rx) = d

/-- What an accepted byte at position `i` stores (R164 to R167). -/
def rxStore (c : Config) (rx : Frame) (i : Nat) (d : Byte) : Frame :=
  if i < hcrcAt c then storeHeader c rx i d
  else if i = hcrcAt c then { rx with hCrc := d }
  else if i < headerSize c + rx.payloadLen.toNat then { rx with payload := rx.payload.store (i - headerSize c) d }
  else storeFcrc c rx (i - headerSize c - rx.payloadLen.toNat) d

section
variable {c : Config} {i : Nat} (rx : Frame) (d : Byte)

theorem rxStore_header (hi : i < hcrcAt c) : rxStore c rx i d = storeHeader c rx i d := if_pos hi

theorem rxStore_hCrc (hi : i = hcrcAt c) : rxStore c rx i d = { rx with hCrc := d } := by
  rw [rxStore, if_neg hi.not_lt, if_pos hi]

theorem rxStore_payload (hlow : headerSize c ≤ i) (hhigh : i < headerSize c + rx.payloadLen.toNat) :
    rxStore c rx i d = { rx with payload := rx.payload.store (i - headerSize c) d } := by
  rw [rxStore, if_neg (Nat.lt_of_succ_le hlow).not_gt, if_neg (Nat.lt_of_succ_le hlow).ne', if_pos hhigh]

theorem rxStore_fCrc {k : Nat} (hi : i = headerSize c + rx.payloadLen.toNat + k) :
    rxStore c rx i d = storeFcrc c rx k d := by
  have hsize : headerSize c = hcrcAt c + 1 := rfl
  rw [rxStore, if_neg (by omega), if_neg (by omega), if_neg (by omega), hi, Nat.sub_sub, Nat.add_sub_cancel_left]

/-- Past the header fields the payload length stands. -/
theorem rxStore_payloadLen (hi : hcrcAt c ≤ i) : (rxStore c rx i d).payloadLen = rx.payloadLen := by
  rw [rxStore, if_neg hi.not_gt]
  split_ifs <;> rfl

end

/-! ### One byte -/

section
variable {c : Config} {i : InLen} {rx : Frame} {d : Byte}

theorem two_lt_hcrcAt (c : Config) : 2 < hcrcAt c := by
  obtain ⟨-, -, -, -, -, -, hhcrc⟩ := wire_offsets c
  omega

/-- Past the markers and but for the header checksum, every byte is accepted. -/
theorem accepts_of_unchecked {i : Nat} (hlow : srcAt c ≤ i) (hne : i ≠ hcrcAt c) : Accepts c i rx d where
  marker0 hm h0 := by simp [srcAt, sizeIf, hm, h0] at hlow
  marker1 hm h1 := by simp [srcAt, sizeIf, hm, h1] at hlow
  check h := absurd h hne

theorem rxByte_of_accepts (h : Accepts c i.toNat rx d) : rxByte c i rx d = rxAdvance c i (rxStore c rx i.toNat d) := by
  obtain ⟨h0, h1, hcheck⟩ := h
  obtain ⟨hm, hwrong, -⟩ | ⟨hi, hbyte⟩ | ⟨hi, hwrong, -⟩ | ⟨hi, -, hbyte⟩ | ⟨hlow, hhigh, hbyte⟩ | ⟨hlow, hbyte⟩ :=
    rxByte_cases c i rx d
  case inl => exact (hwrong.elim (fun h => h.2 (h0 hm h.1)) fun h => h.2 (h1 hm h.1)).elim
  case inr.inl => rw [hbyte, rxStore_header rx d hi]
  case inr.inr.inl => exact absurd (hcheck hi) hwrong
  case inr.inr.inr.inl => rw [hbyte, rxStore_hCrc rx d hi]
  case inr.inr.inr.inr.inl => rw [hbyte, rxStore_payload rx d hlow hhigh]
  case inr.inr.inr.inr.inr =>
    have hk : i.toNat = headerSize c + rx.payloadLen.toNat + (i.toNat - headerSize c - rx.payloadLen.toNat) := by omega
    rw [hbyte, rxStore_fCrc rx d hk]

theorem rxByte_of_wrong_marker (hm : c.markers = true)
    (hwrong : i.toNat = 0 ∧ d ≠ c.start0 ∨ i.toNat = 1 ∧ d ≠ c.start1) :
    rxByte c i rx d = rxAbort rx .markerMismatch := by
  obtain ⟨hi, hd⟩ | ⟨hi, hd⟩ := hwrong <;> simp [rxByte, hm, hi, hd]

theorem rxByte_of_wrong_check (hi : i.toNat = hcrcAt c) (hwrong : crcOf c.hcrc (headerBytes c rx) ≠ d) :
    rxByte c i rx d = rxAbort rx .hcrcMismatch := by
  have hbig := two_lt_hcrcAt c
  have h0 : i.toNat ≠ 0 := by omega
  have h1 : i.toNat ≠ 1 := by omega
  rw [rxByte, beq_false_of_ne h0, beq_false_of_ne h1, hi]
  simp [hwrong]

/-- A byte that is not accepted gives the frame up; what is stored stays. -/
theorem rxByte_of_not_accepts (h : ¬ Accepts c i.toNat rx d) :
    rxByte c i rx d = rxAbort rx (if i.toNat = hcrcAt c then .hcrcMismatch else .markerMismatch) := by
  have hbig := two_lt_hcrcAt c
  by_cases hcheck : i.toNat = hcrcAt c ∧ crcOf c.hcrc (headerBytes c rx) ≠ d
  · rw [rxByte_of_wrong_check hcheck.1 hcheck.2, if_pos hcheck.1]
  by_cases hmarker : c.markers = true ∧ (i.toNat = 0 ∧ d ≠ c.start0 ∨ i.toNat = 1 ∧ d ≠ c.start1)
  · rw [rxByte_of_wrong_marker hmarker.1 hmarker.2, if_neg (by omega)]
  · exact absurd
      { marker0 := fun hm h0 => by_contra fun hd => hmarker ⟨hm, .inl ⟨h0, hd⟩⟩
        marker1 := fun hm h1 => by_contra fun hd => hmarker ⟨hm, .inr ⟨h1, hd⟩⟩
        check := fun hi => by_contra fun hd => hcheck ⟨hi, hd⟩ } h

/-! ### The end of an accepted byte -/

/-- A position within the frame has a successor. -/
theorem inLen_succ_toNat {len : PayloadLen} (hi : i.toNat < wireLength c len) : (i + 1).toNat = i.toNat + 1 := by
  have hlength := wireLength_le c len
  rw [inLen_next_toNat, Nat.mod_eq_of_lt (by omega)]

theorem rxAdvance_of_last (h : i.toNat + 1 = wireLength c rx.payloadLen) :
    rxAdvance c i rx = { inLen := 0, rx := rx, out := some (returnedFrame c rx), code := .ok } :=
  if_pos ((inLen_succ_toNat (Nat.lt_of_succ_le h.le)).trans h)

theorem rxAdvance_of_more (h : i.toNat + 1 < wireLength c rx.payloadLen) :
    rxAdvance c i rx = { inLen := i + 1, rx := rx, out := none, code := .ok } :=
  if_neg ((inLen_succ_toNat (Nat.lt_of_succ_lt h)).trans_ne h.ne)

@[simp] theorem rxAdvance_rx (c : Config) (i : InLen) (rx : Frame) : (rxAdvance c i rx).rx = rx := by
  unfold rxAdvance
  split <;> rfl

/-- An accepted byte leaves the parser within the frame. -/
theorem lt_wireLength_rxStore {i : Nat} (hi : i < wireLength c rx.payloadLen) :
    i < wireLength c (rxStore c rx i d).payloadLen := by
  by_cases hheader : i < hcrcAt c
  · exact hheader.trans (hcrcAt_lt_wireLength c _)
  · rwa [rxStore_payloadLen rx d (not_lt.1 hheader)]

/-! ### The whole next state -/

variable {s : State}

theorem handleByte_eq {r : RxStep} (h : rxByte s.cfg s.inLen s.rx d = r) :
    s.handleByte d = { s with
      inLen := r.inLen, rx := r.rx, qOut := s.qOut ++ [.frameOpt r.out], ghost := s.ghost ++ [r.code] } := by
  subst h
  rfl

theorem handleByte_of_more (haccept : Accepts s.cfg s.inLen.toNat s.rx d)
    (hmore : s.inLen.toNat + 1 < wireLength s.cfg (rxStore s.cfg s.rx s.inLen.toNat d).payloadLen) :
    s.handleByte d = { s with
      inLen := s.inLen + 1, rx := rxStore s.cfg s.rx s.inLen.toNat d,
      qOut := s.qOut ++ [.frameOpt none], ghost := s.ghost ++ [.ok] } :=
  handleByte_eq ((rxByte_of_accepts haccept).trans (rxAdvance_of_more hmore))

theorem handleByte_of_last (haccept : Accepts s.cfg s.inLen.toNat s.rx d)
    (hlast : s.inLen.toNat + 1 = wireLength s.cfg (rxStore s.cfg s.rx s.inLen.toNat d).payloadLen) :
    s.handleByte d = { s with
      inLen := 0, rx := rxStore s.cfg s.rx s.inLen.toNat d,
      qOut := s.qOut ++ [.frameOpt (some (returnedFrame s.cfg (rxStore s.cfg s.rx s.inLen.toNat d)))],
      ghost := s.ghost ++ [.ok] } :=
  handleByte_eq ((rxByte_of_accepts haccept).trans (rxAdvance_of_last hlast))

theorem exec_rxHandleByte (h : s.opPort = .consumer) : exec (.rxHandleByte d) s = .next (s.handleByte d) :=
  exec_of_port h

/-- RX.FEED is its bytes, one after another (30_encoding.md R79). -/
theorem runOps_rxFeed (bytes : List Byte) (h : s.opPort = .consumer) :
    runOps (Pseudo.rxFeed bytes).expand s = .next (bytes.foldl State.handleByte s) := by
  rw [Pseudo.expand, runOps_of_port (by simp [h, Instr.port]), List.foldl_map]
  rfl

end

end Sys2Proof.Machine
end

section
/-! RX.HANDLE_BYTE position by position and RX.RESET (42_datalink_rx.md R163 to R168, R171): the whole next state, and what
the two leave unchanged. -/

namespace Sys2Proof.Machine

section
variable {s : State} {d : Byte}

/-! ### The markers -/

theorem handleByte_wrong_marker (hm : s.cfg.markers = true)
    (hwrong : s.inLen = 0 ∧ d ≠ s.cfg.start0 ∨ s.inLen = 1 ∧ d ≠ s.cfg.start1) :
    s.handleByte d = { s with
      inLen := 0, qOut := s.qOut ++ [.frameOpt none], ghost := s.ghost ++ [.markerMismatch] } :=
  handleByte_eq (rxByte_of_wrong_marker hm (by simpa [← BitVec.toNat_inj] using hwrong))

theorem fcrcBytes_toNat_pos (n : FcrcBytes) : 0 < n.toNat := by cases n <;> decide

/-- No frame ends before its trailing checksum. -/
theorem header_succ_lt_wireLength {c : Config} {i : Nat} (hi : i ≤ hcrcAt c) (len : PayloadLen) :
    i + 1 < wireLength c len := by
  have hpos := fcrcBytes_toNat_pos c.fcrcBytes
  rw [wireLength, headerSize]
  omega

theorem handleByte_header (haccept : Accepts s.cfg s.inLen.toNat s.rx d) (hi : s.inLen.toNat < hcrcAt s.cfg) :
    s.handleByte d = { s with
      inLen := s.inLen + 1, rx := storeHeader s.cfg s.rx s.inLen.toNat d,
      qOut := s.qOut ++ [.frameOpt none], ghost := s.ghost ++ [.ok] } := by
  rw [handleByte_of_more haccept (header_succ_lt_wireLength hi.le _), rxStore_header _ _ hi]

theorem handleByte_marker (hm : s.cfg.markers = true)
    (hright : s.inLen = 0 ∧ d = s.cfg.start0 ∨ s.inLen = 1 ∧ d = s.cfg.start1) :
    s.handleByte d = { s with
      inLen := s.inLen + 1, qOut := s.qOut ++ [.frameOpt none], ghost := s.ghost ++ [.ok] } := by
  have hbig := two_lt_hcrcAt s.cfg
  have hsrc : srcAt s.cfg = 2 := by simp [srcAt, sizeIf, hm]
  have hi : s.inLen.toNat = 0 ∧ d = s.cfg.start0 ∨ s.inLen.toNat = 1 ∧ d = s.cfg.start1 := by
    simpa [← BitVec.toNat_inj] using hright
  have haccept : Accepts s.cfg s.inLen.toNat s.rx d :=
    { marker0 := fun _ h0 => by simpa [h0] using hi
      marker1 := fun _ h1 => by simpa [h1] using hi
      check := fun hcheck => by omega }
  rw [handleByte_header haccept (by omega), storeHeader_marker _ _ (by omega)]

/-! ### The header checksum, the payload and the trailing checksum -/

theorem handleByte_wrong_check (hi : s.inLen.toNat = hcrcAt s.cfg)
    (hwrong : crcOf s.cfg.hcrc (headerBytes s.cfg s.rx) ≠ d) :
    s.handleByte d = { s with
      inLen := 0, qOut := s.qOut ++ [.frameOpt none], ghost := s.ghost ++ [.hcrcMismatch] } :=
  handleByte_eq (rxByte_of_wrong_check hi hwrong)

theorem handleByte_hCrc (hi : s.inLen.toNat = hcrcAt s.cfg) (hright : crcOf s.cfg.hcrc (headerBytes s.cfg s.rx) = d) :
    s.handleByte d = { s with
      inLen := s.inLen + 1, rx := { s.rx with hCrc := d },
      qOut := s.qOut ++ [.frameOpt none], ghost := s.ghost ++ [.ok] } := by
  have hbig := two_lt_hcrcAt s.cfg
  have haccept : Accepts s.cfg s.inLen.toNat s.rx d :=
    { marker0 := fun _ h0 => by omega
      marker1 := fun _ h1 => by omega
      check := fun _ => hright }
  rw [handleByte_of_more haccept (header_succ_lt_wireLength hi.le _), rxStore_hCrc _ _ hi]

/-- Behind the header every byte is accepted. -/
theorem accepts_of_headerSize_le {c : Config} {rx : Frame} {i : Nat} (hi : headerSize c ≤ i) : Accepts c i rx d := by
  obtain ⟨-, hdst, hcmd, hlen, hhcrc, hsize, -⟩ := wire_offsets c
  exact accepts_of_unchecked (by omega) (by omega)

theorem handleByte_payload (hlow : headerSize s.cfg ≤ s.inLen.toNat)
    (hhigh : s.inLen.toNat < headerSize s.cfg + s.rx.payloadLen.toNat) :
    s.handleByte d = { s with
      inLen := s.inLen + 1, rx := { s.rx with payload := s.rx.payload.store (s.inLen.toNat - headerSize s.cfg) d },
      qOut := s.qOut ++ [.frameOpt none], ghost := s.ghost ++ [.ok] } := by
  have hpos := fcrcBytes_toNat_pos s.cfg.fcrcBytes
  have hstore := rxStore_payload s.rx d hlow hhigh
  have hmore : s.inLen.toNat + 1 < wireLength s.cfg s.rx.payloadLen := by rw [wireLength]; omega
  rw [handleByte_of_more (accepts_of_headerSize_le hlow) (by rwa [hstore]), hstore]

section
variable {k : Nat} (hi : s.inLen.toNat = headerSize s.cfg + s.rx.payloadLen.toNat + k)
include hi

theorem accepts_fCrc : Accepts s.cfg s.inLen.toNat s.rx d :=
  accepts_of_headerSize_le (by omega)

theorem handleByte_fCrc_rx : (s.handleByte d).rx = storeFcrc s.cfg s.rx k d := by
  rw [handleByte_eq (rxByte_of_accepts (accepts_fCrc hi)), rxAdvance_rx, rxStore_fCrc _ _ hi]

theorem handleByte_fCrc_more (hk : k + 1 < s.cfg.fcrcBytes.toNat) :
    s.handleByte d = { s with
      inLen := s.inLen + 1, rx := storeFcrc s.cfg s.rx k d,
      qOut := s.qOut ++ [.frameOpt none], ghost := s.ghost ++ [.ok] } := by
  have hstore := rxStore_fCrc s.rx d hi
  have hmore : s.inLen.toNat + 1 < wireLength s.cfg s.rx.payloadLen := by rw [wireLength]; omega
  rw [handleByte_of_more (accepts_fCrc hi) (by rwa [hstore]), hstore]

theorem handleByte_fCrc_last (hk : k + 1 = s.cfg.fcrcBytes.toNat) :
    s.handleByte d = { s with
      inLen := 0, rx := storeFcrc s.cfg s.rx k d,
      qOut := s.qOut ++ [.frameOpt (some (returnedFrame s.cfg (storeFcrc s.cfg s.rx k d)))],
      ghost := s.ghost ++ [.ok] } := by
  have hstore := rxStore_fCrc s.rx d hi
  have hlast : s.inLen.toNat + 1 = wireLength s.cfg s.rx.payloadLen := by rw [wireLength]; omega
  rw [handleByte_of_last (accepts_fCrc hi) (by rwa [hstore]), hstore]

end
end

/-! ### The operations on the consumer port -/

/-- Settles O27: a wrong marker gives the frame up, a right one stores nothing and moves on. -/
theorem markerMismatchReturnsToPositionZero : Obligations.MarkerMismatchReturnsToPositionZero := by
  unfold Obligations.MarkerMismatchReturnsToPositionZero
  refine ⟨fun s d hs hm => ⟨fun hwrong => ?wrong, fun hright => ?right⟩, fun s hs hhw hidle => ?noSync⟩
  case wrong => rw [exec_rxHandleByte hs, handleByte_wrong_marker hm hwrong]
  case right => rw [exec_rxHandleByte hs, handleByte_marker hm hright]
  case noSync =>
    have hm : s.cfg.markers = true := by rw [hhw]; rfl
    rw [runOps_rxFeed _ hs, List.foldl_cons, List.foldl_cons, List.foldl_cons, List.foldl_nil,
      handleByte_marker hm (.inl ⟨hidle, by rw [hhw]; rfl⟩), handleByte_wrong_marker (d := 0xAA),
      handleByte_wrong_marker (d := 0x55)]
    · simp [hidle]
    · exact hm
    · exact .inl ⟨rfl, by rw [hhw]; decide⟩
    · exact hm
    · exact .inr ⟨by rw [hidle]; rfl, by rw [hhw]; decide⟩

theorem setLane_half_low (v : BitVec 16) (d : Byte) : setLane v 0 d = (v &&& 0xFF00) ||| d.setWidth 16 := by
  rw [setLane, Nat.mul_zero, BitVec.shiftLeft_zero, BitVec.shiftLeft_zero]
  rfl

theorem setLane_half_high (v : BitVec 16) (d : Byte) : setLane v 1 d = (v &&& 0x00FF) ||| (d.setWidth 16 <<< 8) := rfl

/-- Settles O28, field by field. -/
theorem headerByteIsStoredIntoItsField : Obligations.HeaderByteIsStoredIntoItsField := by
  unfold Obligations.HeaderByteIsStoredIntoItsField
  intro s d hs hhigh hlow
  have hbyte := handleByte_header (d := d) (accepts_of_unchecked hlow hhigh.ne) hhigh
  refine ⟨_, (exec_rxHandleByte hs).trans (congrArg _ hbyte),
    fun h hi => ?_, fun h hi => ?_, fun hi => ?_, fun hi => ?_, fun h hi => ?_, fun h hi => ?_, fun hi => ?_⟩ <;> rw [hi]
  · rw [← setLane_half_low, ← storeHeader_src s.rx d h (by decide), Nat.add_zero]
  · rw [← setLane_half_high, storeHeader_src s.rx d h (by decide)]
  · rw [← setLane_half_low, ← storeHeader_dst s.rx d (by decide), Nat.add_zero]
  · rw [← setLane_half_high, storeHeader_dst s.rx d (by decide)]
  · rw [← setLane_half_low, ← storeHeader_cmd s.rx d h (by decide), Nat.add_zero]
  · rw [← setLane_half_high, storeHeader_cmd s.rx d h (by decide)]
  · exact storeHeader_len s.rx d

/-- Settles O29, from the two answers of the check. -/
theorem headerChecksumIsCheckedAtItsPosition : Obligations.HeaderChecksumIsCheckedAtItsPosition :=
  fun _ _ hs hi => ⟨fun hwrong => (exec_rxHandleByte hs).trans (congrArg _ (handleByte_wrong_check hi hwrong)),
    fun hright => (exec_rxHandleByte hs).trans (congrArg _ (handleByte_hCrc hi hright))⟩

/-- Settles O30: a payload byte is a store, read back where it was written. -/
theorem payloadByteIsStoredAtItsOffset : Obligations.PayloadByteIsStoredAtItsOffset :=
  fun s _ hs hlow hhigh => ⟨_, (exec_rxHandleByte hs).trans (congrArg _ (handleByte_payload hlow hhigh)),
    Memory.load_store_same .rxpay s.rx.payload _ _, fun _ hj => Memory.load_store_other .rxpay s.rx.payload _ hj⟩

/-- Settles O32: the last byte is stored into the last lane, and the frame stored is returned. -/
theorem lastByteReturnsTheFrame : Obligations.LastByteReturnsTheFrame := by
  unfold Obligations.LastByteReturnsTheFrame
  intro s d hs hlow hlast
  have hpos := fcrcBytes_toNat_pos s.cfg.fcrcBytes
  have hi : s.inLen.toNat = headerSize s.cfg + s.rx.payloadLen.toNat + (s.cfg.fcrcBytes.toNat - 1) := by
    rw [wireLength] at hlast
    omega
  refine ⟨_, (exec_rxHandleByte hs).trans (congrArg _ (handleByte_fCrc_last hi (by omega))), rfl, ?_⟩
  exact (byteLane_storeFcrc s.rx d (by omega) (by omega)).trans (if_pos rfl)

/-- Settles O36: the effect of RESET on its own port. -/
theorem rxResetClearsOnlyThePosition : Obligations.RxResetClearsOnlyThePosition := by
  refine fun s hs => ⟨exec_of_port hs, fun hidle => ⟨_, exec_of_port hs, ?_⟩⟩
  simp [effect, State.block, hidle]

/-! ### What the operations leave unchanged -/

/-- A byte writes the payload at a payload position only, and there at its offset. -/
theorem rxByte_payload (c : Config) (i : InLen) (rx : Frame) (d : Byte) :
    (rxByte c i rx d).rx.payload = rx.payload ∨
    (headerSize c ≤ i.toNat ∧ i.toNat < headerSize c + rx.payloadLen.toNat ∧
      (rxByte c i rx d).rx.payload = rx.payload.store (i.toNat - headerSize c) d) := by
  obtain ⟨-, -, hbyte⟩ | ⟨-, hbyte⟩ | ⟨-, -, hbyte⟩ | ⟨-, -, hbyte⟩ | ⟨hlow, hhigh, hbyte⟩ | ⟨-, hbyte⟩ :=
    rxByte_cases c i rx d <;> rw [hbyte]
  case inr.inr.inr.inr.inl => exact .inr ⟨hlow, hhigh, by rw [rxAdvance_rx]⟩
  case inr.inl => exact .inl (by simp)
  all_goals exact .inl (by simp [rxAbort, storeFcrc])

/-- Settles O58: a byte writes the parser's two elements, RESET its position, a refusal nothing. -/
theorem receiveOperationsFrame : Obligations.ReceiveOperationsFrame := by
  unfold Obligations.ReceiveOperationsFrame
  refine fun s t d => ⟨fun h => ?byte, fun h => ?reset⟩
  case byte =>
    have hcfg := exec_cfg h
    obtain ⟨-, rfl⟩ | ⟨-, rfl⟩ := exec_cases h
    · obtain hkept | ⟨hlow, hhigh, hstored⟩ := rxByte_payload s.cfg s.inLen s.rx d
      · exact ⟨rfl, hcfg, fun _ => rfl, fun a _ => congrArg (·.load .rxpay a) hkept, fun _ => hkept⟩
      · refine ⟨rfl, hcfg, fun _ => rfl, fun a ha => ?_, fun hout => by omega⟩
        exact (congrArg (·.load .rxpay a) hstored).trans (Memory.load_store_other .rxpay _ _ ha)
    · have hblock := portViolation_block s (.rxHandleByte d)
      have hrx := congrArg Block.rx hblock
      have hloads := loads_eq_of_ring_of_rx (congrArg Block.ring hblock) hrx
      exact ⟨by rw [← hblock]; rfl, hcfg, fun a => (hloads a).1, fun a _ => (hloads a).2,
        fun _ => congrArg (·.payload) hrx⟩
  case reset =>
    have hblock : t.block = { s.block with inLen := t.inLen } := by
      obtain ⟨-, rfl⟩ | ⟨-, rfl⟩ := exec_cases h
      · rfl
      · rw [← portViolation_block s .rxReset]; rfl
    exact ⟨hblock, exec_cfg h, loads_eq_of_ring_of_rx (congrArg Block.ring hblock) (congrArg Block.rx hblock)⟩

end Sys2Proof.Machine
end

section
/-! The bytes a frame in progress has received (42_datalink_rx.md R162, R176): they are the first bytes of the wire frame that
`S.rx` stands for, and every accepted byte is added behind them. What the parser does next depends on them alone, so parsing
is the inverse of serializing. -/

namespace Sys2Proof.Machine

/-! ### An accepted byte on the wire -/

/-- Two sequences that differ in one part, by one byte there, differ by that byte at its position. -/
theorem eq_set_of_middle {α : Type} {bytes bytes' pre mid mid' post : List α} {n k : Nat} {d : α}
    (hbytes : bytes = pre ++ mid ++ post) (hbytes' : bytes' = pre ++ mid' ++ post) (hn : pre.length = n)
    (hk : k < mid.length) (hmid : mid' = mid.set k d) : bytes' = bytes.set (n + k) d := by
  subst hbytes hbytes' hn hmid
  rw [List.set_append_left _ _ (by simpa using hk), List.set_append_right _ _ (Nat.le_add_right _ _),
    Nat.add_sub_cancel_left]

theorem eq_set_of_leField {bytes bytes' pre post : List Byte} {n k : Nat} {d : Byte} (v : BitVec 16)
    (hbytes : bytes = pre ++ leField v ++ post) (hbytes' : bytes' = pre ++ leField (setLane v k d) ++ post)
    (hn : pre.length = n) (hk : k < 2) : bytes' = bytes.set (n + k) d :=
  eq_set_of_middle hbytes hbytes' hn hk (leField_setLane d (by decide) hk)

section
variable {c : Config} {i k : Nat} (rx : Frame) (d : Byte)

/-- A byte stored in a header field is that byte of the header. -/
theorem headerBytes_storeHeader (hlow : srcAt c ≤ i) (hhigh : i < hcrcAt c) :
    headerBytes c (storeHeader c rx i d) = (headerBytes c rx).set i d := by
  obtain ⟨h, k, hk, rfl⟩ | ⟨k, hk, rfl⟩ | ⟨h, k, hk, rfl⟩ | rfl := header_position_cases hlow hhigh
  case inl =>
    rw [storeHeader_src rx d h hk]
    exact eq_set_of_leField rx.src (pre := bytesIf c.markers [c.start0, c.start1])
      (post := leField rx.dst ++ bytesIf c.hasCmd (leField rx.cmd) ++ leField rx.payloadLen)
      (by simp [headerBytes, bytesIf, h]) (by simp [headerBytes, bytesIf, h]) (by simp [srcAt])
      hk
  case inr.inl =>
    rw [storeHeader_dst rx d hk]
    exact eq_set_of_leField rx.dst (pre := bytesIf c.markers [c.start0, c.start1] ++ bytesIf c.hasSrc (leField rx.src))
      (post := bytesIf c.hasCmd (leField rx.cmd) ++ leField rx.payloadLen)
      (by simp [headerBytes]) (by simp [headerBytes]) (by simp [dstAt, srcAt, fieldBytes])
      hk
  case inr.inr.inl =>
    rw [storeHeader_cmd rx d h hk]
    exact eq_set_of_leField rx.cmd
      (pre := bytesIf c.markers [c.start0, c.start1] ++ bytesIf c.hasSrc (leField rx.src) ++ leField rx.dst)
      (post := leField rx.payloadLen)
      (by simp [headerBytes, bytesIf, h]) (by simp [headerBytes, bytesIf, h])
      (by simp [cmdAt, dstAt, srcAt, fieldBytes, Nat.add_assoc]) hk
  case inr.inr.inr =>
    rw [storeHeader_len]
    exact eq_set_of_middle (n := lenAt c) (k := 0)
      (pre := bytesIf c.markers [c.start0, c.start1] ++ bytesIf c.hasSrc (leField rx.src) ++ leField rx.dst ++
        bytesIf c.hasCmd (leField rx.cmd)) (mid := [rx.payloadLen]) (post := [])
      (by simp [headerBytes]) (by simp [headerBytes])
      (by simp only [lenAt, cmdAt, dstAt, srcAt, List.length_append, length_bytesIf, length_leField, List.length_cons,
        List.length_nil]) Nat.one_pos rfl

theorem wireBytes_hCrc_stored : wireBytes c { rx with hCrc := d } = (wireBytes c rx).set (hcrcAt c) d :=
  eq_set_of_middle (k := 0) (pre := headerBytes c rx) (mid := [rx.hCrc])
    (post := usedPayload rx ++ leBytes rx.fCrc c.fcrcBytes.toNat)
    (by simp [wireBytes, coveredBytes]) (by simp [wireBytes, coveredBytes]; rfl) (length_headerBytes c rx)
    Nat.one_pos rfl

theorem usedPayload_store (k : Nat) :
    usedPayload { rx with payload := rx.payload.store k d } = (usedPayload rx).set k d := by
  refine List.ext_getElem (by simp) fun j hj _ => ?_
  rw [List.getElem_set]
  split_ifs with heq
  · subst heq; simp [usedPayload, payloadByte]
  · simp [usedPayload, payloadByte, Memory.load_store_other _ _ _ (Ne.symm heq)]

theorem wireBytes_payload_stored (hk : k < rx.payloadLen.toNat) :
    wireBytes c { rx with payload := rx.payload.store k d } = (wireBytes c rx).set (headerSize c + k) d :=
  eq_set_of_middle (pre := headerBytes c rx ++ [rx.hCrc]) (post := leBytes rx.fCrc c.fcrcBytes.toNat) rfl rfl
    (by simp [headerSize]) (by simpa using hk) (usedPayload_store rx d k)

theorem wireBytes_storeFcrc (hk : k < c.fcrcBytes.toNat) :
    wireBytes c (storeFcrc c rx k d) = (wireBytes c rx).set (headerSize c + rx.payloadLen.toNat + k) d :=
  eq_set_of_middle (pre := coveredBytes c rx) (post := []) (List.append_nil _).symm (List.append_nil _).symm
    (length_coveredBytes c rx) (by simpa using hk) (leBytes_storeFcrc rx d hk)

/-- The bytes received so far, at position `i`. -/
def received (c : Config) (i : Nat) (rx : Frame) : List Byte := (wireBytes c rx).take i

theorem received_of_le_hcrcAt (hi : i ≤ hcrcAt c) : received c i rx = (headerBytes c rx).take i := by
  rw [received, wireBytes, coveredBytes, List.append_assoc, List.append_assoc,
    List.take_append_of_le_length (by simpa using hi)]

theorem take_succ_set {bytes : List Byte} (hi : i < bytes.length) :
    (bytes.set i d).take (i + 1) = bytes.take i ++ [d] := by
  simp [List.take_add_one, List.take_set_of_le, hi]

variable {rx d}

/-- An accepted marker is the byte that stands at its position. -/
theorem getElem?_wireBytes_marker (haccept : Accepts c i rx d) (hi : i < srcAt c) : (wireBytes c rx)[i]? = some d := by
  have hm : c.markers = true := by
    by_contra hm
    simp [srcAt, sizeIf, hm] at hi
  have hsrc : srcAt c = 2 := by simp [srcAt, sizeIf, hm]
  obtain ⟨h0, h1⟩ := headerBytes_markers c rx hm
  obtain rfl | rfl : i = 0 ∨ i = 1 := by omega
  · rw [haccept.marker0 hm rfl]; exact wireBytes_of_headerBytes h0
  · rw [haccept.marker1 hm rfl]; exact wireBytes_of_headerBytes h1

/-- An accepted byte is added to the bytes received. -/
theorem received_rxStore (haccept : Accepts c i rx d) (hi : i < wireLength c rx.payloadLen) :
    received c (i + 1) (rxStore c rx i d) = received c i rx ++ [d] := by
  obtain ⟨-, hdst, hcmd, hlen, hhcrc, hsize, -⟩ := wire_offsets c
  have hbytes : i < (wireBytes c rx).length := by simpa using hi
  by_cases hmarker : i < srcAt c
  · rw [rxStore_header rx d (by omega), storeHeader_marker rx d hmarker, received, List.take_add_one,
      getElem?_wireBytes_marker haccept hmarker]
    rfl
  by_cases hheader : i < hcrcAt c
  · rw [rxStore_header rx d hheader, received_of_le_hcrcAt _ hheader, received_of_le_hcrcAt _ hheader.le,
      headerBytes_storeHeader rx d (not_lt.1 hmarker) hheader, take_succ_set d (by simpa using hheader)]
  have hset : wireBytes c (rxStore c rx i d) = (wireBytes c rx).set i d := by
    by_cases hcheck : i = hcrcAt c
    · rw [rxStore_hCrc rx d hcheck, wireBytes_hCrc_stored, hcheck]
    by_cases hpayload : i < headerSize c + rx.payloadLen.toNat
    · obtain ⟨k, rfl⟩ := Nat.exists_eq_add_of_le (show headerSize c ≤ i by omega)
      rw [rxStore_payload rx d (by omega) hpayload, Nat.add_sub_cancel_left, wireBytes_payload_stored rx d (by omega)]
    · obtain ⟨k, rfl⟩ := Nat.exists_eq_add_of_le (not_lt.1 hpayload)
      rw [rxStore_fCrc rx d rfl, wireBytes_storeFcrc rx d (by rw [wireLength] at hi; omega)]
  rw [received, hset, take_succ_set d hbytes, received]

end

end Sys2Proof.Machine
end

section
/-! Parsing is the inverse of serializing (42_datalink_rx.md R176): whether a byte is accepted and whether it is the last
depends on the bytes received alone, and a frame is read back from its wire bytes. -/

namespace Sys2Proof.Machine

section
variable {c : Config} {i j : Nat} {f g : Frame} {d : Byte}

theorem received_wireLength (f : Frame) : received c (wireLength c f.payloadLen) f = wireBytes c f := by
  rw [received, ← length_wireBytes, List.take_length]

/-- What two frames have in common of a wire frame, they have of a shorter piece of it. -/
theorem received_eq_of_le (h : received c i f = received c i g) (hj : j ≤ i) : received c j f = received c j g := by
  simpa [received, List.take_take, hj] using congrArg (List.take j) h

theorem headerBytes_eq_of_received (h : received c i f = received c i g) (hi : hcrcAt c ≤ i) :
    headerBytes c f = headerBytes c g := by
  have hheader := received_eq_of_le h hi
  rwa [received_of_le_hcrcAt _ le_rfl, received_of_le_hcrcAt _ le_rfl, ← length_headerBytes c f, List.take_length,
    length_headerBytes, ← length_headerBytes c g, List.take_length] at hheader

/-- The header fields that are on the wire are read back from it. -/
theorem header_fields_eq (h : headerBytes c f = headerBytes c g) :
    (c.hasSrc = true → f.src = g.src) ∧ f.dst = g.dst ∧ (c.hasCmd = true → f.cmd = g.cmd) ∧
    f.payloadLen = g.payloadLen := by
  obtain ⟨hcmds, hlen⟩ := List.append_inj' h (by simp only [length_leField])
  obtain ⟨hdsts, hcmd⟩ := List.append_inj' hcmds (by simp only [length_bytesIf, length_leField])
  obtain ⟨hsrcs, hdst⟩ := List.append_inj' hdsts (by simp only [length_leField])
  obtain ⟨-, hsrc⟩ := List.append_inj' hsrcs (by simp only [length_bytesIf, length_leField])
  refine ⟨fun hs => ?_, leField_injective (by decide) hdst, fun hc => ?_, leField_injective (by decide) hlen⟩
  · rw [hs] at hsrc
    exact leField_injective (by decide) hsrc
  · rw [hc] at hcmd
    exact leField_injective (by decide) hcmd

/-- Every part of the wire frame is read back from it. -/
theorem wire_parts_eq (h : wireBytes c f = wireBytes c g) :
    headerBytes c f = headerBytes c g ∧ f.hCrc = g.hCrc ∧ usedPayload f = usedPayload g ∧
    leBytes f.fCrc c.fcrcBytes.toNat = leBytes g.fCrc c.fcrcBytes.toNat := by
  obtain ⟨hcovered, hfCrc⟩ := List.append_inj' h (by simp)
  have hheader : headerBytes c f = headerBytes c g :=
    headerBytes_eq_of_received (i := hcrcAt c) (congrArg (List.take (hcrcAt c)) h) le_rfl
  obtain ⟨-, -, -, hlen⟩ := header_fields_eq hheader
  obtain ⟨hhCrc, hpayload⟩ := List.append_inj' hcovered (by simp [hlen])
  exact ⟨hheader, by simpa using (List.append_inj' hhCrc rfl).2, hpayload, hfCrc⟩

section
variable (h : received c i f = received c i g)
include h

/-- Whether the next byte is accepted depends on the bytes received. -/
theorem accepts_of_received_eq (haccept : Accepts c i f d) : Accepts c i g d where
  marker0 := haccept.marker0
  marker1 := haccept.marker1
  check hi := headerBytes_eq_of_received h hi.ge ▸ haccept.check hi

/-- Within the header the payload length is not known yet; past it, it has been received. -/
theorem header_or_payloadLen_eq : i < hcrcAt c ∨ f.payloadLen = g.payloadLen := by
  refine (lt_or_ge i (hcrcAt c)).imp_right fun hi => ?_
  obtain ⟨-, -, -, hlen⟩ := header_fields_eq (headerBytes_eq_of_received h hi)
  exact hlen

theorem lt_wireLength_iff_of_received_eq : i < wireLength c f.payloadLen ↔ i < wireLength c g.payloadLen := by
  obtain hi | hlen := header_or_payloadLen_eq h
  · exact iff_of_true (hi.trans (hcrcAt_lt_wireLength c _)) (hi.trans (hcrcAt_lt_wireLength c _))
  · rw [hlen]

theorem eq_wireLength_iff_of_received_eq : i = wireLength c f.payloadLen ↔ i = wireLength c g.payloadLen := by
  obtain hi | hlen := header_or_payloadLen_eq h
  · exact iff_of_false (hi.trans (hcrcAt_lt_wireLength c _)).ne (hi.trans (hcrcAt_lt_wireLength c _)).ne
  · rw [hlen]

/-- The whole wire frame has been received when its length has. -/
theorem wireBytes_eq_of_received (hi : i = wireLength c g.payloadLen) : wireBytes c f = wireBytes c g := by
  have hi' := (eq_wireLength_iff_of_received_eq h).2 hi
  rwa [← received_wireLength, ← received_wireLength, ← hi, ← hi']

end

/-- A frame's own bytes are accepted, where its header checksum is correct. -/
theorem accepts_own_byte (hbyte : (wireBytes c g)[i]? = some d)
    (hcheck : i ≤ hcrcAt c → g.hCrc = crcOf c.hcrc (headerBytes c g)) : Accepts c i g d where
  marker0 hm h0 := by
    subst h0
    exact Option.some.inj (hbyte.symm.trans (wireBytes_of_headerBytes (headerBytes_markers c g hm).1))
  marker1 hm h1 := by
    subst h1
    exact Option.some.inj (hbyte.symm.trans (wireBytes_of_headerBytes (headerBytes_markers c g hm).2))
  check hi := by
    rw [hi, wireBytes_hCrc] at hbyte
    exact (hcheck hi.le).symm.trans (Option.some.inj hbyte)

theorem fCrc_masked_of_last {rx : Frame} (hlast : i + 1 = wireLength c (rxStore c rx i d).payloadLen) :
    (rxStore c rx i d).fCrc &&& c.fcrcBytes.mask = (rxStore c rx i d).fCrc := by
  have hlow : hcrcAt c < i := by
    by_contra hi
    exact (header_succ_lt_wireLength (not_lt.1 hi) _).ne hlast
  rw [rxStore_payloadLen rx d hlow.le, wireLength, headerSize] at hlast
  have hpos := fcrcBytes_toNat_pos c.fcrcBytes
  obtain ⟨k, rfl⟩ := Nat.exists_eq_add_of_le (show headerSize c + rx.payloadLen.toNat ≤ i by rw [headerSize]; omega)
  rw [rxStore_fCrc rx d rfl, storeFcrc, BitVec.and_assoc, BitVec.and_self]

/-- An absent field is not on the wire. -/
@[simp] theorem headerBytes_returnedFrame (rx : Frame) : headerBytes c (returnedFrame c rx) = headerBytes c rx := by
  cases hsrc : c.hasSrc <;> cases hcmd : c.hasCmd <;> simp [headerBytes, returnedFrame, bytesIf, hsrc, hcmd]

/-- The next byte of a frame is accepted, and then it has been received too. -/
theorem accepts_next_byte {rx : Frame} (hreceived : received c i rx = received c i g)
    (hcheck : i ≤ hcrcAt c → g.hCrc = crcOf c.hcrc (headerBytes c g)) (hbyte : (wireBytes c g)[i]? = some d) :
    Accepts c i rx d ∧ received c (i + 1) (rxStore c rx i d) = received c (i + 1) g := by
  have haccept : Accepts c i rx d := accepts_of_received_eq hreceived.symm (accepts_own_byte hbyte hcheck)
  obtain ⟨hi, -⟩ := List.getElem?_eq_some_iff.1 hbyte
  rw [length_wireBytes] at hi
  refine ⟨haccept, ?_⟩
  rw [received_rxStore haccept ((lt_wireLength_iff_of_received_eq hreceived).2 hi), hreceived, received, received,
    List.take_add_one, hbyte]
  rfl

end

/-- Fed the rest of a frame's bytes, the parser returns none for each but the last, and on the last what it has
received. -/
theorem feed_rest {g : Frame} (n : Nat) {s : State}
    (hreceived : received s.cfg s.inLen.toNat s.rx = received s.cfg s.inLen.toNat g)
    (hcheck : s.inLen.toNat ≤ hcrcAt s.cfg → g.hCrc = crcOf s.cfg.hcrc (headerBytes s.cfg g))
    (hn : s.inLen.toNat + n + 1 = wireLength s.cfg g.payloadLen) :
    ∃ rx, wireBytes s.cfg rx = wireBytes s.cfg g ∧ rx.fCrc &&& s.cfg.fcrcBytes.mask = rx.fCrc ∧
      ((wireBytes s.cfg g).drop s.inLen.toNat).foldl State.handleByte s = { s with
        inLen := 0, rx := rx,
        qOut := s.qOut ++ List.replicate n (.frameOpt none) ++ [.frameOpt (some (returnedFrame s.cfg rx))],
        ghost := s.ghost ++ List.replicate (n + 1) .ok } := by
  have hlt : s.inLen.toNat < (wireBytes s.cfg g).length := by rw [length_wireBytes]; omega
  obtain ⟨haccept, hstored⟩ := accepts_next_byte hreceived hcheck (List.getElem?_eq_getElem hlt)
  rw [List.drop_eq_getElem_cons hlt, List.foldl_cons]
  cases n with
  | zero =>
    have hlast := (eq_wireLength_iff_of_received_eq hstored).2 hn
    refine ⟨_, wireBytes_eq_of_received hstored hn, fCrc_masked_of_last hlast, ?_⟩
    rw [List.drop_eq_nil_of_le (by rw [length_wireBytes]; omega), List.foldl_nil, handleByte_of_last haccept hlast]
    simp
  | succ n =>
    have hmore := (lt_wireLength_iff_of_received_eq hstored).2 (by omega)
    have hnext : (s.inLen + 1).toNat = s.inLen.toNat + 1 := inLen_succ_toNat (by rwa [length_wireBytes] at hlt)
    rw [handleByte_of_more haccept hmore, ← hnext]
    rw [← hnext] at hstored
    obtain ⟨rx, hwire, hmasked, hrest⟩ := feed_rest n (g := g) (s := { s with
      inLen := s.inLen + 1, rx := rxStore s.cfg s.rx s.inLen.toNat _,
      qOut := s.qOut ++ [.frameOpt none], ghost := s.ghost ++ [.ok] }) hstored
      (fun hi => hcheck (by simp only [hnext] at hi; omega)) (by simp only [hnext]; omega)
    refine ⟨rx, hwire, hmasked, hrest.trans ?_⟩
    simp [List.replicate_succ]
termination_by n

end Sys2Proof.Machine
end

section
/-! What RX.HANDLE_BYTE returns (42_datalink_rx.md R164, R167 to R170, R176): a frame on the last byte of one and none before,
made of the bytes received and of nothing that `S.rx` held before. -/

namespace Sys2Proof.Machine

/-! ### The frame returned after its bytes -/

/-- Settles O37: from the idle state the whole wire frame is the rest of it, and the frame received has its fields. -/
theorem serializedFrameIsParsedBack : Obligations.SerializedFrameIsParsedBack := by
  unfold Obligations.SerializedFrameIsParsedBack
  intro s f hs hidle
  have hidle' : s.inLen.toNat = 0 := by rw [hidle]; rfl
  have hlength := Nat.zero_lt_of_lt (hcrcAt_lt_wireLength s.cfg f.payloadLen)
  obtain ⟨rx, hwire, hmasked, hrun⟩ := feed_rest (s := s) (g := withChecksums s.cfg f)
    (wireLength s.cfg f.payloadLen - 1) (by rw [hidle']; rfl) (fun _ => rfl)
    (by rw [hidle', Nat.zero_add]; exact Nat.sub_add_cancel hlength)
  rw [hidle', List.drop_zero] at hrun
  obtain ⟨hheader, hhCrc, hpayload, hfCrc⟩ := wire_parts_eq hwire
  obtain ⟨hsrc, hdst, hcmd, hlen⟩ := header_fields_eq hheader
  refine ⟨_, returnedFrame s.cfg rx, (runOps_rxFeed _ hs).trans (congrArg _ hrun), rfl, hdst, hlen, hpayload,
    fun h => ?src, fun h => ?cmd, hhCrc, ?fCrc, rfl, ?block⟩
  case src => exact (if_pos h).trans (hsrc h)
  case cmd => exact (if_pos h).trans (hcmd h)
  case fCrc => exact eq_of_leBytes_fCrc_eq s.cfg.fcrcBytes hmasked (fcrcOf_masked s.cfg _) hfCrc
  case block => simp [State.block, hidle]

/-! ### The trailing checksum -/

/-- The trailing checksum of a returned frame is the one received, whatever `S.rx` held before (R167). -/
theorem feed_checksum {s : State} {v : Word} {bytes : List Byte} (hbytes : leBytes v s.cfg.fcrcBytes.toNat = bytes)
    (hv : v &&& s.cfg.fcrcBytes.mask = v) (hi : s.inLen.toNat = headerSize s.cfg + s.rx.payloadLen.toNat) :
    ∃ f : Frame, (bytes.foldl State.handleByte s).qOut =
      s.qOut ++ List.replicate (s.cfg.fcrcBytes.toNat - 1) (.frameOpt none) ++ [.frameOpt (some f)] ∧ f.fCrc = v := by
  subst hbytes
  have hpos := fcrcBytes_toNat_pos s.cfg.fcrcBytes
  have hstands : ∀ u : Word, received s.cfg s.inLen.toNat { s.rx with fCrc := u } = coveredBytes s.cfg s.rx := fun u => by
    rw [hi, ← length_coveredBytes]
    exact List.take_left
  have hn : s.inLen.toNat + (s.cfg.fcrcBytes.toNat - 1) + 1 = wireLength s.cfg s.rx.payloadLen := by
    rw [hi, wireLength]
    omega
  obtain ⟨rx, hwire, hmasked, hrun⟩ := feed_rest (s := s) (g := { s.rx with fCrc := v }) (s.cfg.fcrcBytes.toNat - 1)
    ((hstands _).trans (hstands v).symm) (fun hle => by rw [hi, headerSize] at hle; omega) hn
  have hrest : (wireBytes s.cfg { s.rx with fCrc := v }).drop s.inLen.toNat = leBytes v s.cfg.fcrcBytes.toNat := by
    rw [hi, ← length_coveredBytes]
    exact List.drop_left
  obtain ⟨-, -, -, hfCrc⟩ := wire_parts_eq hwire
  rw [hrest] at hrun
  exact ⟨_, congrArg State.qOut hrun, eq_of_leBytes_fCrc_eq s.cfg.fcrcBytes hmasked hv hfCrc⟩

theorem byteLane_or (v w : Word) (k : Nat) : byteLane (v ||| w) k = byteLane v k ||| byteLane w k :=
  BitVec.extractLsb'_or

/-- A byte moved up by `m` lanes stands in lane `m` and in no other. -/
theorem byteLane_shifted (b : Byte) (m : Nat) {k : Nat} (hk : k < 4) :
    byteLane (b.setWidth 32 <<< (8 * m)) k = if k = m then b else 0 := by
  refine BitVec.eq_of_getLsbD_eq fun j hj => ?_
  have hin : 8 * k + j < 32 := by omega
  simp only [byteLane, BitVec.getLsbD_extractLsb', BitVec.getLsbD_shiftLeft, BitVec.getLsbD_setWidth, hj, hin]
  split_ifs with heq
  · have hj32 : j < 32 := by omega
    simp [heq, hj32]
  · obtain hlow | hhigh := Nat.lt_or_gt_of_ne heq
    · simp [show 8 * k + j < 8 * m by omega]
    · simp [BitVec.getLsbD_of_ge b (8 * k + j - 8 * m) (by omega)]

theorem leBytes_word (b0 b1 b2 b3 : Byte) :
    leBytes (b0.setWidth 32 ||| (b1.setWidth 32 <<< 8) ||| (b2.setWidth 32 <<< 16) ||| (b3.setWidth 32 <<< 24)) 4 =
      [b0, b1, b2, b3] := by
  have h0 : ∀ k < 4, byteLane (b0.setWidth 32) k = if k = 0 then b0 else 0 := fun k => by
    simpa using byteLane_shifted b0 0 (k := k)
  have h1 : ∀ k < 4, byteLane (b1.setWidth 32 <<< 8) k = if k = 1 then b1 else 0 := fun _ => byteLane_shifted b1 1
  have h2 : ∀ k < 4, byteLane (b2.setWidth 32 <<< 16) k = if k = 2 then b2 else 0 := fun _ => byteLane_shifted b2 2
  have h3 : ∀ k < 4, byteLane (b3.setWidth 32 <<< 24) k = if k = 3 then b3 else 0 := fun _ => byteLane_shifted b3 3
  simp [leBytes, List.range_succ, byteLane_or, h0, h1, h2, h3]

/-- Settles O31: lane by lane, and for a whole checksum fed. -/
theorem checksumByteIsStoredIntoItsLane : Obligations.ChecksumByteIsStoredIntoItsLane := by
  unfold Obligations.ChecksumByteIsStoredIntoItsLane
  refine ⟨fun s d k hs hk hi => ?lane, fun s b0 b1 b2 b3 hs hi => ⟨fun hfour => ?four, fun hone => ?one⟩⟩
  case lane =>
    have hrx := handleByte_fCrc_rx (d := d) hi
    refine ⟨_, exec_rxHandleByte hs, by rw [hrx]; rfl, ?_, fun j hj hne => ?_⟩ <;> rw [hrx]
    · exact (byteLane_storeFcrc s.rx d hk hk).trans (if_pos rfl)
    · exact (byteLane_storeFcrc s.rx d hk hj).trans (if_neg hne)
  case four =>
    obtain ⟨f, hout, hf⟩ := feed_checksum (bytes := [b0, b1, b2, b3])
      (by rw [hfour]; exact leBytes_word b0 b1 b2 b3) (by rw [hfour, word_masked]) hi
    rw [hfour] at hout
    exact ⟨_, f, runOps_rxFeed _ hs, by simpa [FcrcBytes.toNat] using hout, hf⟩
  case one =>
    obtain ⟨f, hout, hf⟩ := feed_checksum (v := b0.setWidth 32) (bytes := [b0])
      (by rw [hone]; simp [leBytes, FcrcBytes.toNat, byteLane, BitVec.extractLsb'_setWidth_of_le])
      (by rw [hone, word_of_byte_masked]) hi
    rw [hone] at hout
    exact ⟨_, f, runOps_rxFeed _ hs, by simpa [FcrcBytes.toNat] using hout, hf⟩

/-! ### One byte of a frame -/

/-- Within a frame, a byte returns the frame when it is the last of the trailing checksum, and none otherwise. -/
theorem handleByte_cases {s : State} (d : Byte) (hi : s.inLen.toNat < wireLength s.cfg s.rx.payloadLen) :
    (¬ (s.inLen.toNat + 1 = wireLength s.cfg s.rx.payloadLen ∧ headerSize s.cfg ≤ s.inLen.toNat) ∧
      (s.handleByte d).qOut = s.qOut ++ [.frameOpt none]) ∨
    ∃ k, k + 1 = s.cfg.fcrcBytes.toNat ∧ s.inLen.toNat = headerSize s.cfg + s.rx.payloadLen.toNat + k ∧
      (s.handleByte d).qOut = s.qOut ++ [.frameOpt (some (returnedFrame s.cfg (storeFcrc s.cfg s.rx k d)))] ∧
      (s.handleByte d).rx = storeFcrc s.cfg s.rx k d := by
  by_cases haccept : Accepts s.cfg s.inLen.toNat s.rx d
  case neg =>
    refine .inl ⟨fun hlast => haccept (accepts_of_headerSize_le hlast.2), ?_⟩
    rw [handleByte_eq (rxByte_of_not_accepts haccept)]
    rfl
  by_cases hheader : s.inLen.toNat < headerSize s.cfg
  case pos =>
    refine .inl ⟨fun hlast => hheader.not_ge hlast.2, ?_⟩
    rw [handleByte_of_more haccept (header_succ_lt_wireLength (Nat.le_of_lt_succ hheader) _)]
  by_cases hpayload : s.inLen.toNat < headerSize s.cfg + s.rx.payloadLen.toNat
  case pos =>
    have hpos := fcrcBytes_toNat_pos s.cfg.fcrcBytes
    refine .inl ⟨fun hlast => by rw [wireLength] at hlast; omega, ?_⟩
    rw [handleByte_payload (not_lt.1 hheader) hpayload]
  obtain ⟨k, hk⟩ := Nat.exists_eq_add_of_le (not_lt.1 hpayload)
  by_cases hlast : k + 1 = s.cfg.fcrcBytes.toNat
  · refine .inr ⟨k, hlast, hk, ?_, ?_⟩ <;> rw [handleByte_fCrc_last hk hlast]
  · rw [wireLength] at hi ⊢
    refine .inl ⟨by omega, ?_⟩
    rw [handleByte_fCrc_more hk (by omega)]

theorem within_frame {s : State} (h : s.Inv) : s.inLen.toNat < wireLength s.cfg s.rx.payloadLen :=
  h.rx_position.elim (fun hi => hi.trans (hcrcAt_lt_wireLength s.cfg _)) id

/-- Settles O33: in every state of a run the position is within a frame. -/
theorem handleByteCompletesAndReturnsAFrameOnlyAtTheEnd : Obligations.HandleByteCompletesAndReturnsAFrameOnlyAtTheEnd := by
  unfold Obligations.HandleByteCompletesAndReturnsAFrameOnlyAtTheEnd
  intro s d hinv hs
  obtain ⟨hnot, hout⟩ | ⟨k, hk, hi, hout, -⟩ := handleByte_cases d (within_frame hinv)
  · exact ⟨_, _, exec_rxHandleByte hs, hout, by simpa using hnot⟩
  · refine ⟨_, _, exec_rxHandleByte hs, hout, iff_of_true rfl ⟨?_, by omega⟩⟩
    rw [wireLength]
    omega

/-- Settles O34: the frame returned is `S.rx` with its trailing checksum complete, whose header has been checked. -/
theorem returnedFrameIsTheReceivedOne : Obligations.ReturnedFrameIsTheReceivedOne := by
  unfold Obligations.ReturnedFrameIsTheReceivedOne
  intro s t d f hinv hs hexec hout
  rw [exec_rxHandleByte hs] at hexec
  cases hexec
  obtain ⟨-, hnone⟩ | ⟨k, -, hi, hsome, hrx⟩ := handleByte_cases d (within_frame hinv)
  · simp [hnone] at hout
  have hf : f = returnedFrame s.cfg (storeFcrc s.cfg s.rx k d) := by
    simpa using (hsome.symm.trans hout).symm
  subst hf
  refine ⟨?_, (congrArg Frame.fCrc hrx).symm, rfl, rfl, rfl, fun h => if_pos h, fun h => if_pos h, fun h => ?_,
    fun h => ?_⟩
  · rw [headerBytes_returnedFrame]
    exact hinv.rx_header (by omega)
  · simp [returnedFrame, h]
  · simp [returnedFrame, h]

/-! ### What `S.rx` held before -/

/-- Two frames in progress that differ at most in what no byte has been received of. -/
structure SameReceived (c : Config) (i : Nat) (f g : Frame) : Prop where
  within : i < wireLength c f.payloadLen
  received : received c i f = received c i g
  payload : f.payload = g.payload

section
variable {c : Config} {f g : Frame} {d : Byte}

theorem sameReceived_zero (h : f.payload = g.payload) : SameReceived c 0 f g where
  within := Nat.zero_lt_of_lt (hcrcAt_lt_wireLength c _)
  received := rfl
  payload := h

theorem returnedFrame_eq (hwire : wireBytes c f = wireBytes c g) (hpayload : f.payload = g.payload)
    (hf : f.fCrc &&& c.fcrcBytes.mask = f.fCrc) (hg : g.fCrc &&& c.fcrcBytes.mask = g.fCrc) :
    returnedFrame c f = returnedFrame c g := by
  obtain ⟨hheader, hhCrc, -, hfCrc⟩ := wire_parts_eq hwire
  obtain ⟨hsrc, hdst, hcmd, hlen⟩ := header_fields_eq hheader
  simp only [returnedFrame, Frame.mk.injEq]
  exact ⟨ite_congr rfl hsrc fun _ => rfl, hdst, ite_congr rfl hcmd fun _ => rfl, hlen, hpayload, hhCrc,
    eq_of_leBytes_fCrc_eq c.fcrcBytes hf hg hfCrc⟩

theorem rxStore_sameReceived {i : Nat} (h : SameReceived c i f g) (haccept : Accepts c i f d) :
    received c (i + 1) (rxStore c f i d) = received c (i + 1) (rxStore c g i d) ∧
    (rxStore c f i d).payload = (rxStore c g i d).payload := by
  obtain ⟨hwithin, hreceived, hpayload⟩ := h
  constructor
  · rw [received_rxStore haccept hwithin, received_rxStore (accepts_of_received_eq hreceived haccept)
      ((lt_wireLength_iff_of_received_eq hreceived).1 hwithin), hreceived]
  · obtain hi | hlen := header_or_payloadLen_eq hreceived
    · simp [rxStore_header _ _ hi, hpayload]
    · simp only [rxStore, hlen, hpayload]
      split_ifs <;> simp [hpayload, storeFcrc]

/-- What a byte does depends on the bytes received and on the payload buffer. -/
theorem rxByte_sameReceived {i : InLen} (h : SameReceived c i.toNat f g) :
    (rxByte c i f d).inLen = (rxByte c i g d).inLen ∧ (rxByte c i f d).out = (rxByte c i g d).out ∧
    (rxByte c i f d).code = (rxByte c i g d).code ∧
    SameReceived c (rxByte c i f d).inLen.toNat (rxByte c i f d).rx (rxByte c i g d).rx := by
  by_cases haccept : Accepts c i.toNat f d
  case neg =>
    rw [rxByte_of_not_accepts haccept,
      rxByte_of_not_accepts fun haccept' => haccept (accepts_of_received_eq h.received.symm haccept')]
    exact ⟨rfl, rfl, rfl, sameReceived_zero h.payload⟩
  obtain ⟨hstored, hpayload⟩ := rxStore_sameReceived h haccept
  rw [rxByte_of_accepts haccept, rxByte_of_accepts (accepts_of_received_eq h.received haccept)]
  obtain hmore | hlast := (Nat.succ_le_of_lt (lt_wireLength_rxStore (d := d) h.within)).lt_or_eq
  · rw [rxAdvance_of_more hmore, rxAdvance_of_more ((lt_wireLength_iff_of_received_eq hstored).1 hmore)]
    have hnext := inLen_succ_toNat h.within
    exact ⟨rfl, rfl, rfl, hnext ▸ hmore, hnext ▸ hstored, hpayload⟩
  · have hlast' := (eq_wireLength_iff_of_received_eq hstored).1 hlast
    have hreturned := returnedFrame_eq (wireBytes_eq_of_received hstored hlast') hpayload (fCrc_masked_of_last hlast)
      (fCrc_masked_of_last hlast')
    rw [rxAdvance_of_last hlast, rxAdvance_of_last hlast', hreturned]
    exact ⟨rfl, rfl, rfl, sameReceived_zero hpayload⟩

end

/-- A run of bytes tells two such frames apart by nothing but themselves. -/
theorem foldl_handleByte_sameReceived (bytes : List Byte) {s : State} {g : Frame}
    (h : SameReceived s.cfg s.inLen.toNat s.rx g) :
    ∃ g', bytes.foldl State.handleByte { s with rx := g } = { bytes.foldl State.handleByte s with rx := g' } ∧
      (bytes.foldl State.handleByte s).rx.payload = g'.payload := by
  induction bytes generalizing s g with
  | nil => exact ⟨g, rfl, h.payload⟩
  | cons d bytes ih =>
    obtain ⟨hinLen, hout, hcode, hnext⟩ := rxByte_sameReceived (d := d) h
    have hbyte : ({ s with rx := g } : State).handleByte d =
        { s.handleByte d with rx := (rxByte s.cfg s.inLen g d).rx } := by
      rw [handleByte_eq rfl, handleByte_eq rfl, hinLen, hout, hcode]
    rw [List.foldl_cons, List.foldl_cons, hbyte]
    exact ih (s := s.handleByte d) hnext

/-- Settles O35: at the start of a frame no byte of it has been received. -/
theorem oldHeaderFieldsNeverReachAResult : Obligations.OldHeaderFieldsNeverReachAResult := by
  unfold Obligations.OldHeaderFieldsNeverReachAResult
  intro s f bytes hs hidle
  have hidle' : s.inLen.toNat = 0 := by rw [hidle]; rfl
  obtain ⟨g', hrun, hpayload⟩ := foldl_handleByte_sameReceived bytes (s := s) (g := { f with payload := s.rx.payload })
    (by rw [hidle']; exact sameReceived_zero rfl)
  have hother := runOps_rxFeed (s := { s with rx := { f with payload := s.rx.payload } }) bytes hs
  exact ⟨_, _, runOps_rxFeed bytes hs, hother.trans (congrArg _ hrun), rfl, rfl, hpayload⟩

end Sys2Proof.Machine
end

section
/-! The guards (43_datalink_guards.md R200 to R203, R206): what each answers, alone and one after the other, and the whole next
state. -/

namespace Sys2Proof.Machine

/-! ### What the guards answer -/

section
variable {c : Config} {f : Frame} {a : Addr}

theorem fcrcMatches_iff : fcrcMatches c f = true ↔ fcrcOf c (coveredBytes c f) = f.fCrc &&& c.fcrcBytes.mask :=
  beq_iff_eq

theorem guardCrc_of_match (h : fcrcMatches c f = true) : guardCrc c (some f) = some f := if_pos h

theorem guardCrc_of_mismatch (h : ¬ fcrcMatches c f = true) : guardCrc c (some f) = none := if_neg h

theorem guardAddr_of_eq (h : f.dst = a) : guardAddr a (some f) = some f := if_pos h

theorem guardAddr_of_ne (h : f.dst ≠ a) : guardAddr a (some f) = none := if_neg h

variable (c f a)

/-- The address guard behind the checksum guard, as `GUARD.BOTH` has them (30_encoding.md R79). -/
theorem guardAddr_guardCrc :
    guardAddr a (guardCrc c (some f)) = if fcrcMatches c f = true ∧ f.dst = a then some f else none := by
  by_cases hcrc : fcrcMatches c f = true
  · simp only [guardCrc_of_match hcrc, hcrc, true_and]
    rfl
  · rw [guardCrc_of_mismatch hcrc, if_neg fun h => hcrc h.1]
    rfl

/-- The checksum guard behind the address guard. -/
theorem guardCrc_guardAddr :
    guardCrc c (guardAddr a (some f)) = if fcrcMatches c f = true ∧ f.dst = a then some f else none := by
  by_cases hdst : f.dst = a
  · simp only [guardAddr_of_eq hdst, hdst, and_true]
    rfl
  · rw [guardAddr_of_ne hdst, if_neg fun h => hdst h.2]
    rfl

end

/-- Settles O40: either order passes a frame exactly when both guards pass it. -/
theorem guardsCommute : Obligations.GuardsCommute := by
  unfold Obligations.GuardsCommute
  intro c x a
  cases x with
  | none => exact ⟨rfl, fun _ _ _ _ => rfl, fun _ => rfl⟩
  | some f =>
    refine ⟨(guardAddr_guardCrc c f a).trans (guardCrc_guardAddr c f a).symm, fun g hg hcrc hdst => ?pass, fun hnot => ?drop⟩
    case pass =>
      cases hg
      rw [guardAddr_guardCrc, if_pos ⟨hcrc, hdst⟩]
    case drop => rw [guardAddr_guardCrc, if_neg (hnot f rfl)]

/-! ### The operations on the consumer port -/

section
variable {s : State} {x r : Option Frame} (hs : s.opPort = .consumer) (hx : s.bundle.frameOpt = x)
include hs hx

theorem exec_guardCrc (hr : guardCrc s.cfg x = r) :
    exec .guardCrc s = .next { s with
      qOut := s.qOut ++ [.frameOpt r], ghost := s.ghost ++ [guardCode x r .fcrcMismatch] } := by
  subst hr hx
  exact exec_of_port hs

theorem exec_guardAddr (hr : guardAddr s.bundle.addr x = r) :
    exec .guardAddr s = .next { s with
      qOut := s.qOut ++ [.frameOpt r], ghost := s.ghost ++ [guardCode x r .addrMismatch] } := by
  subst hr hx
  exact exec_of_port hs

end

/-- The frame of R201's example, with any payload buffer and trailing checksum. -/
def guardExample (m : Memory) (v : Word) : Frame :=
  { src := 0x0001, dst := 0x0010, cmd := 0x0100, payloadLen := 0, payload := m, hCrc := 0x9E, fCrc := v }

theorem coveredBytes_guardExample (m : Memory) (v : Word) :
    coveredBytes Config.hw (guardExample m v) = [0xAA, 0x55, 0x01, 0x00, 0x10, 0x00, 0x00, 0x01, 0x00, 0x9E] := by
  simp [coveredBytes, headerBytes, usedPayload, bytesIf, guardExample, Config.hw]

theorem fcrcMatches_guardExample (m : Memory) (v : Word) :
    fcrcMatches Config.hw (guardExample m v) = true ↔ v = 0xBC3C2026 := by
  have hcrc : fcrcOf Config.hw [0xAA, 0x55, 0x01, 0x00, 0x10, 0x00, 0x00, 0x01, 0x00, 0x9E] = 0xBC3C2026 := by
    decide +kernel
  rw [fcrcMatches_iff, coveredBytes_guardExample, hcrc, eq_comm]
  exact iff_of_eq (congrArg (· = _) (word_masked v))

/-- Settles O38: none, a match and a mismatch, and the rule's example. -/
theorem checksumGuardPassesMatchingFrames : Obligations.ChecksumGuardPassesMatchingFrames := by
  unfold Obligations.ChecksumGuardPassesMatchingFrames
  refine ⟨fun s hs => ⟨fun hnone => exec_guardCrc hs hnone rfl, fun f hf => ⟨fun hmatch => ?same, fun hother => ?other⟩⟩,
    fun m => ⟨?pass, ?drop⟩⟩
  case same => exact exec_guardCrc hs hf (guardCrc_of_match (fcrcMatches_iff.2 hmatch))
  case other => exact exec_guardCrc hs hf (guardCrc_of_mismatch (mt fcrcMatches_iff.1 hother))
  case pass => exact guardCrc_of_match ((fcrcMatches_guardExample m _).2 rfl)
  case drop => exact guardCrc_of_mismatch (mt (fcrcMatches_guardExample m _).1 (by decide))

/-- Settles O39: none, the operand's address and another one. -/
theorem addressGuardPassesExactlyItsAddress : Obligations.AddressGuardPassesExactlyItsAddress :=
  fun _ hs => ⟨fun hnone => exec_guardAddr hs hnone rfl, fun _ hf =>
    ⟨fun hsame => exec_guardAddr hs hf (guardAddr_of_eq hsame), fun hother => exec_guardAddr hs hf (guardAddr_of_ne hother)⟩⟩

end Sys2Proof.Machine
end

section
/-! One changed byte in a frame (43_datalink_guards.md R205). A wire frame holds two checked sequences, the header with `h_crc`
and the covered bytes with `f_crc`; one changed byte never leads from one checked sequence to another, so the parser or the
guard sees it. -/

namespace Sys2Proof.Machine

/-! ### Checked sequences -/

/-- Sequences that differ in one byte have different checks. -/
def DetectsOneByte (check : List Byte → List Byte) : Prop :=
  ∀ (before after : List Byte) (d d' : Byte), d' ≠ d → check (before ++ [d'] ++ after) ≠ check (before ++ [d] ++ after)

theorem headerCheck_detects : DetectsOneByte fun bytes => [crcOf Config.hw.hcrc bytes] :=
  fun before after _ _ hne h => crcOf_ne_of_byte_ne (by decide) (by decide) hne before after (List.cons.inj h).1

theorem frameCheck_detects :
    DetectsOneByte fun bytes => leBytes (fcrcOf Config.hw bytes) Config.hw.fcrcBytes.toNat :=
  fun before after _ _ hne h => crcOf_ne_of_byte_ne (by decide) (by decide) hne before after
    (eq_of_leBytes_fCrc_eq .four (word_masked _) (word_masked _) h)

/-- One changed byte does not make a sequence followed by its check another sequence followed by its check. -/
theorem checked_ne_set {check : List Byte → List Byte} (hdetects : DetectsOneByte check)
    {bytes bytes' whole whole' : List Byte} (hwhole : whole = bytes ++ check bytes)
    (hwhole' : whole' = bytes' ++ check bytes') (hlength : (check bytes).length = (check bytes').length) {j : Nat} {d : Byte}
    (hj : j < whole.length) (hd : d ≠ whole[j]) : whole' ≠ whole.set j d := by
  subst hwhole hwhole'
  intro h
  by_cases hin : j < bytes.length
  case pos =>
    rw [List.set_append_left _ _ hin] at h
    obtain ⟨hbytes, hcheck⟩ := List.append_inj' h hlength.symm
    rw [List.getElem_append_left hin] at hd
    apply hdetects (bytes.take j) (bytes.drop (j + 1)) bytes[j] d hd
    simpa [hbytes, List.set_eq_take_append_cons_drop, hin] using hcheck
  case neg =>
    have hbytes : bytes' = bytes := by
      rw [List.set_append_right _ _ (not_lt.1 hin)] at h
      exact (List.append_inj' h (by simpa using hlength.symm)).1
    subst hbytes
    apply hd
    simpa only [List.getElem?_set_self hj, List.getElem?_eq_getElem hj, Option.some.injEq] using congrArg (·[j]?) h.symm

/-! ### A header fed to the idle parser -/

/-- `t` is the state behind the header bytes `bytes`, fed to the idle parser in `s`: no frame was returned. -/
structure FedHeader (s : State) (bytes : List Byte) (t : State) : Prop where
  cfg : t.cfg = s.cfg
  position : t.inLen.toNat = bytes.length
  received : received s.cfg bytes.length t.rx = bytes
  results : t.qOut = s.qOut ++ List.replicate bytes.length (.frameOpt none)

/-- The markers stand before the header checksum. -/
theorem srcAt_lt_hcrcAt (c : Config) : srcAt c < hcrcAt c := by
  obtain ⟨-, hdst, hcmd, hlen, hhcrc, -⟩ := wire_offsets c
  omega

/-- Before the header checksum, no byte is checked against what has been received. -/
theorem accepts_of_lt_hcrcAt {c : Config} {i : Nat} {g : Frame} {d : Byte} (hi : i < hcrcAt c) (h : Accepts c i g d)
    (rx : Frame) : Accepts c i rx d where
  marker0 := h.marker0
  marker1 := h.marker1
  check hcheck := absurd hcheck hi.ne

section
variable {s : State} {g : Frame} (hidle : s.inLen = 0)
include hidle

theorem feed_header (bytes : List Byte) (hlength : bytes.length ≤ hcrcAt s.cfg)
    (haccept : ∀ i d, bytes[i]? = some d → Accepts s.cfg i g d) :
    FedHeader s bytes (bytes.foldl State.handleByte s) := by
  induction bytes using List.reverseRecOn with
  | nil => exact { cfg := rfl, position := by simp [hidle], received := rfl, results := by simp }
  | append_singleton bytes d ih =>
    rw [List.length_append, List.length_singleton] at hlength
    obtain ⟨hcfg, hposition, hreceived, hresults⟩ := ih (by omega) fun i e he =>
      haccept i e (by rw [List.getElem?_append_left (List.getElem?_eq_some_iff.1 he).1, he])
    have hnext := accepts_of_lt_hcrcAt hlength (haccept bytes.length d (by simp))
    rw [List.foldl_concat]
    generalize bytes.foldl State.handleByte s = t at *
    have hbyte := handleByte_of_more (s := t) (d := d) (by rw [hcfg, hposition]; exact hnext t.rx)
      (header_succ_lt_wireLength (by rw [hcfg]; omega) _)
    have hwithin : t.inLen.toNat < wireLength t.cfg t.rx.payloadLen :=
      (hcrcAt_lt_wireLength t.cfg _).trans' (by rw [hcfg, hposition]; exact hlength)
    rw [hbyte]
    refine { cfg := hcfg, position := ?_, received := ?_, results := ?_ }
    · rw [List.length_append, ← hposition]
      exact inLen_succ_toNat hwithin
    · rw [hcfg, hposition] at hwithin
      rw [List.length_append, List.length_singleton, hcfg, hposition, received_rxStore (hnext t.rx) hwithin, hreceived]
    · simp [hresults, List.replicate_succ']

/-- A byte that is not accepted behind a piece of a header: the parser is idle again and has returned no frame. -/
theorem feed_rejected {bytes : List Byte} {n : Nat} {d : Byte} (hn : n ≤ hcrcAt s.cfg) (hbyte : bytes[n]? = some d)
    (haccept : ∀ i < n, ∀ e, bytes[i]? = some e → Accepts s.cfg i g e)
    (hreject : ∀ rx, received s.cfg n rx = bytes.take n → ¬ Accepts s.cfg n rx d) :
    ((bytes.take (n + 1)).foldl State.handleByte s).inLen = 0 ∧
    ((bytes.take (n + 1)).foldl State.handleByte s).qOut = s.qOut ++ List.replicate (n + 1) (.frameOpt none) := by
  have hlength : (bytes.take n).length = n :=
    List.length_take_of_le (List.getElem?_eq_some_iff.1 hbyte).1.le
  obtain ⟨hcfg, hposition, hreceived, hresults⟩ := feed_header (g := g) hidle (bytes.take n) (by rw [hlength]; exact hn)
    fun i e he => by
      rw [List.getElem?_take] at he
      split at he
      · exact haccept i ‹_› e he
      · cases he
  rw [hlength] at hposition hreceived hresults
  rw [List.take_add_one, hbyte, Option.toList_some, List.foldl_concat]
  generalize (bytes.take n).foldl State.handleByte s = t at *
  have hwrong : ¬ Accepts t.cfg t.inLen.toNat t.rx d := by
    rw [hcfg, hposition]
    exact hreject t.rx hreceived
  rw [handleByte_eq (rxByte_of_not_accepts hwrong)]
  exact ⟨rfl, by simp [rxAbort, hresults, List.replicate_succ']⟩

end

/-! ### The changed frame -/

/-- A byte stored behind the header changes that byte of the wire frame, and the header is as before. -/
theorem rxStore_of_headerSize_le {c : Config} {i : Nat} (rx : Frame) (d : Byte) (hlow : headerSize c ≤ i)
    (hhigh : i < wireLength c rx.payloadLen) :
    wireBytes c (rxStore c rx i d) = (wireBytes c rx).set i d ∧ headerBytes c (rxStore c rx i d) = headerBytes c rx ∧
    (rxStore c rx i d).hCrc = rx.hCrc := by
  by_cases hpayload : i < headerSize c + rx.payloadLen.toNat
  · obtain ⟨k, rfl⟩ := Nat.exists_eq_add_of_le hlow
    rw [rxStore_payload rx d hlow hpayload, Nat.add_sub_cancel_left, wireBytes_payload_stored rx d (by omega)]
    exact ⟨rfl, rfl, rfl⟩
  · obtain ⟨k, rfl⟩ := Nat.exists_eq_add_of_le (not_lt.1 hpayload)
    rw [rxStore_fCrc rx d rfl, wireBytes_storeFcrc rx d (by rw [wireLength] at hhigh; omega)]
    exact ⟨rfl, rfl, rfl⟩

/-- Absent fields are not covered by the trailing checksum. -/
@[simp] theorem coveredBytes_returnedFrame (c : Config) (rx : Frame) :
    coveredBytes c (returnedFrame c rx) = coveredBytes c rx := by
  rw [coveredBytes, headerBytes_returnedFrame]
  rfl

/-- The header with its checksum is the first `H` bytes of the wire frame. -/
theorem take_wireBytes_headerSize (c : Config) (f : Frame) :
    (wireBytes c f).take (headerSize c) = headerBytes c f ++ [f.hCrc] := by
  rw [wireBytes, coveredBytes, List.append_assoc]
  exact List.take_left' (by simp [headerSize])

section
variable {c : Config} {g rx : Frame} {j : Nat} {d : Byte} {bytes : List Byte} (hj : j < (wireBytes c g).length)
  (hd : d ≠ (wireBytes c g)[j]) (hbytes : bytes = (wireBytes c g).set j d)
include hd

/-- A changed marker is not accepted. -/
theorem not_accepts_changed_marker (hmarker : j < srcAt c) : ¬ Accepts c j rx d := by
  intro haccept
  have haccept' := accepts_of_lt_hcrcAt (hmarker.trans (srcAt_lt_hcrcAt c)) haccept g
  have hright := getElem?_wireBytes_marker haccept' hmarker
  exact hd (Option.some.inj (hright.symm.trans (List.getElem?_eq_getElem hj)))

include hbytes

/-- With a byte of the header or of `h_crc` changed, the byte in the place of `h_crc` is not accepted. -/
theorem not_accepts_hCrc_of_changed (hdetects : DetectsOneByte fun bytes => [crcOf c.hcrc bytes])
    (hhCrc : g.hCrc = crcOf c.hcrc (headerBytes c g)) (hheader : j < headerSize c) {e : Byte}
    (he : bytes[hcrcAt c]? = some e) (hreceived : received c (hcrcAt c) rx = bytes.take (hcrcAt c)) :
    ¬ Accepts c (hcrcAt c) rx e := by
  intro haccept
  have hheaderBytes : headerBytes c rx = bytes.take (hcrcAt c) := by
    rwa [received_of_le_hcrcAt rx le_rfl, ← length_headerBytes c rx, List.take_length, length_headerBytes] at hreceived
  have hchecked : (wireBytes c g).take (headerSize c) = headerBytes c g ++ [crcOf c.hcrc (headerBytes c g)] := by
    rw [take_wireBytes_headerSize, hhCrc]
  have hchecked' : bytes.take (headerSize c) = headerBytes c rx ++ [crcOf c.hcrc (headerBytes c rx)] := by
    rw [haccept.check rfl, hheaderBytes, headerSize, List.take_add_one, he]
    rfl
  exact checked_ne_set hdetects hchecked hchecked' rfl (j := j) (d := d) (by simpa [hheader] using hj) (by simpa using hd)
    (hbytes ▸ List.take_set)

/-- A frame whose wire bytes are a checksummed frame's with one byte changed does not pass the checksum guard. -/
theorem guardCrc_of_changed (hdetects : DetectsOneByte fun bytes => leBytes (fcrcOf c bytes) c.fcrcBytes.toNat)
    (hfCrc : g.fCrc = fcrcOf c (coveredBytes c g)) (hmasked : rx.fCrc &&& c.fcrcBytes.mask = rx.fCrc)
    (hwire : wireBytes c rx = bytes) : guardCrc c (some (returnedFrame c rx)) = none := by
  refine guardCrc_of_mismatch fun hmatch => ?_
  rw [fcrcMatches_iff, coveredBytes_returnedFrame] at hmatch
  have hright : rx.fCrc = fcrcOf c (coveredBytes c rx) := (hmatch.trans hmasked).symm
  exact checked_ne_set hdetects (by rw [wireBytes, hfCrc]) (by rw [wireBytes, hright]) (by simp) hj hd (hwire.trans hbytes)

end

/-! ### The changed frame fed to the idle parser -/

section
variable {s : State} {c : Config} {g : Frame} {j : Nat} {d : Byte} {bytes : List Byte} (hcfg : s.cfg = c)
  (hidle : s.inLen = 0) (hhCrc : g.hCrc = crcOf c.hcrc (headerBytes c g)) (hj : j < (wireBytes c g).length)
  (hd : d ≠ (wireBytes c g)[j]) (hbytes : bytes = (wireBytes c g).set j d)

include hhCrc hbytes in
/-- The bytes that are not changed are those of the frame. -/
theorem accepts_unchanged_byte {i : Nat} {e : Byte} (hne : i ≠ j) (he : bytes[i]? = some e) :
    Accepts c i g e := by
  rw [hbytes, List.getElem?_set_ne hne.symm] at he
  exact accepts_own_byte he fun _ => hhCrc

include hcfg hidle hhCrc hd hbytes

theorem feed_changed_marker (hmarker : j < srcAt c) :
    ((bytes.take (j + 1)).foldl State.handleByte s).inLen = 0 ∧
    ((bytes.take (j + 1)).foldl State.handleByte s).qOut =
      s.qOut ++ List.replicate (j + 1) (.frameOpt none) := by
  subst hcfg
  exact feed_rejected hidle (hmarker.trans (srcAt_lt_hcrcAt s.cfg)).le (by rw [hbytes, List.getElem?_set_self hj])
    (fun i hi e he => accepts_unchanged_byte hhCrc hbytes hi.ne he) fun rx _ => not_accepts_changed_marker hj hd hmarker

theorem feed_changed_header (hdetects : DetectsOneByte fun bytes => [crcOf c.hcrc bytes]) (hlow : srcAt c ≤ j)
    (hhigh : j < headerSize c) :
    ((bytes.take (headerSize c)).foldl State.handleByte s).inLen = 0 ∧
    ((bytes.take (headerSize c)).foldl State.handleByte s).qOut =
      s.qOut ++ List.replicate (headerSize c) (.frameOpt none) := by
  subst hcfg
  have hin : hcrcAt s.cfg < bytes.length := by
    rw [hbytes, List.length_set, length_wireBytes]
    exact hcrcAt_lt_wireLength _ _
  refine feed_rejected (g := g) hidle le_rfl (List.getElem?_eq_getElem hin) (fun i hi e he => ?_) fun rx hreceived =>
    not_accepts_hCrc_of_changed hj hd hbytes hdetects hhCrc hhigh (List.getElem?_eq_getElem hin) hreceived
  by_cases hchanged : i = j
  · exact accepts_of_unchecked (hchanged ▸ hlow) hi.ne
  · exact accepts_unchanged_byte hhCrc hbytes hchanged he

theorem feed_changed_behind_header
    (hdetects : DetectsOneByte fun bytes => leBytes (fcrcOf c bytes) c.fcrcBytes.toNat)
    (hfCrc : g.fCrc = fcrcOf c (coveredBytes c g)) (hlow : headerSize c ≤ j) :
    ∃ x, (bytes.foldl State.handleByte s).inLen = 0 ∧
      (bytes.foldl State.handleByte s).qOut =
        s.qOut ++ List.replicate (wireLength c g.payloadLen - 1) (.frameOpt none) ++ [.frameOpt (some x)] ∧
      guardCrc c (some x) = none := by
  subst hcfg
  obtain ⟨hwire, hheader, hcheck⟩ := rxStore_of_headerSize_le g d hlow (by simpa using hj)
  have hlen : (rxStore s.cfg g j d).payloadLen = g.payloadLen := rxStore_payloadLen g d (Nat.le_of_succ_le hlow)
  have hidle' : s.inLen.toNat = 0 := by rw [hidle]; rfl
  have hpos := Nat.zero_lt_of_lt (hcrcAt_lt_wireLength s.cfg g.payloadLen)
  obtain ⟨rx, hrx, hmasked, hrun⟩ := feed_rest (s := s) (g := rxStore s.cfg g j d) (wireLength s.cfg g.payloadLen - 1)
    (by rw [hidle']; rfl) (fun _ => by rw [hcheck, hheader, hhCrc])
    (by rw [hidle', hlen, Nat.zero_add]; exact Nat.sub_add_cancel hpos)
  rw [hwire, ← hbytes] at hrx hrun
  rw [hidle', List.drop_zero] at hrun
  rw [hrun]
  exact ⟨_, rfl, rfl, guardCrc_of_changed hj hd hbytes hdetects hfCrc hmasked hrx⟩

end

/-- Settles O42: the flipped byte differs, in the markers, in the rest of the header with `h_crc`, or behind it. -/
theorem singleBitErrorNeverPassesThePipeline : Obligations.SingleBitErrorNeverPassesThePipeline := by
  unfold Obligations.SingleBitErrorNeverPassesThePipeline
  intro s f j k hs hidle hcfg hk hj w w'
  have hjw : j < w.length := by rw [length_wireBytes]; exact hj
  have hw' : w' = w.set j (w[j] ^^^ (1#8 <<< k)) := List.modify_eq_set_get _ hjw
  have hne := xor_bit_ne w[j] hk
  refine ⟨fun hmarker => ?marker, fun hlow hhigh => ?header, fun hlow => ?behind⟩
  case marker => exact ⟨_, runOps_rxFeed _ hs, feed_changed_marker hcfg hidle rfl hjw hne hw' hmarker⟩
  case header => exact ⟨_, runOps_rxFeed _ hs, feed_changed_header hcfg hidle rfl hjw hne hw' headerCheck_detects hlow hhigh⟩
  case behind =>
    obtain ⟨x, hinLen, hout, hguard⟩ := feed_changed_behind_header hcfg hidle rfl hjw hne hw' frameCheck_detects rfl hlow
    rw [hw', List.length_set, length_wireBytes, ← hw']
    exact ⟨_, x, runOps_rxFeed _ hs, hinLen, hout, hguard⟩

end Sys2Proof.Machine
end

section
/-! The checksum update and the issue step of a send (44_datalink_tx.md R221 to R223): what a checksummed frame holds, its wire
bytes field by field, and the whole next state of both operations. -/

namespace Sys2Proof.Machine

/-! ### The checksummed frame -/

section
variable (c : Config) (f : Frame)

/-- The covered bytes of a checksummed frame end in the new `h_crc` and the payload. -/
theorem coveredBytes_withChecksums : coveredBytes c (withChecksums c f) =
    headerBytes c f ++ [crcOf c.hcrc (headerBytes c f)] ++ usedPayload f := rfl

/-- Neither checksum is among the bytes it is computed over. -/
theorem withChecksums_idempotent : withChecksums c (withChecksums c f) = withChecksums c f := rfl

theorem fcrcMatches_withChecksums : fcrcMatches c (withChecksums c f) = true :=
  fcrcMatches_iff.2 (fcrcOf_masked c (coveredBytes c (withChecksums c f))).symm

/-- The wire bytes field by field, as R222 lists them. -/
theorem wireBytes_eq_fields : wireBytes c f =
    (if c.markers then [c.start0, c.start1] else []) ++
      (if c.hasSrc then [f.src.extractLsb' 0 8, f.src.extractLsb' 8 8] else []) ++
      [f.dst.extractLsb' 0 8, f.dst.extractLsb' 8 8] ++
      (if c.hasCmd then [f.cmd.extractLsb' 0 8, f.cmd.extractLsb' 8 8] else []) ++
      [f.payloadLen, f.hCrc] ++ (List.range f.payloadLen.toNat).map (f.payload.load .rxpay) ++
      (List.range c.fcrcBytes.toNat).map (fun k => f.fCrc.extractLsb' (8 * k) 8) := by
  have hpayload : usedPayload f = (List.range f.payloadLen.toNat).map (f.payload.load .rxpay) := rfl
  have hcheck : leBytes f.fCrc c.fcrcBytes.toNat =
    (List.range c.fcrcBytes.toNat).map (fun k => f.fCrc.extractLsb' (8 * k) 8) := rfl
  simp only [wireBytes, coveredBytes, headerBytes, bytesIf, leField_half, leField_byte, hpayload, hcheck,
    List.append_assoc, List.cons_append, List.nil_append]

end

/-- Settles O41: the operation answers the checksummed frame, whose header bytes and payload are those of its operand. -/
theorem updateCrcStoresBothChecksums : Obligations.UpdateCrcStoresBothChecksums := by
  unfold Obligations.UpdateCrcStoresBothChecksums
  refine ⟨fun s hs => ⟨withChecksums s.cfg s.bundle.frame, exec_of_port hs, rfl, rfl, ?fCrc⟩, withChecksums_idempotent,
    fun c f => guardCrc_of_match (fcrcMatches_withChecksums c f)⟩
  case fCrc => exact congrArg (fcrcOf s.cfg) (coveredBytes_withChecksums s.cfg s.bundle.frame)

/-! ### The issue step -/

section
variable {s t : State}

theorem exec_txSend (hs : s.opPort = .consumer) : exec .txSend s = .next s.sendIssue := exec_of_port hs

/-- On the consumer port, the state after TX.SEND is the issued send. -/
theorem eq_sendIssue_of_exec (hs : s.opPort = .consumer) (h : exec .txSend s = .next t) : t = s.sendIssue := by
  rw [exec_txSend hs] at h
  cases h
  rfl

@[simp] theorem length_sendIssue_txBytes (s : State) :
    s.sendIssue.txBytes.length = wireLength s.cfg s.bundle.frame.payloadLen := length_wireBytes _ _

/-- TX.SEND writes the transmit elements alone, and a refused one nothing. -/
theorem exec_txSend_block (h : exec .txSend s = .next t) :
    t.block = { s.block with txBusy := t.txBusy, txBytes := t.txBytes, txIdx := t.txIdx } := by
  obtain ⟨-, rfl⟩ | ⟨-, rfl⟩ := exec_cases h
  · rfl
  · rw [← portViolation_block s .txSend]
    rfl

end

/-- Settles O43, from the wire bytes by field and their number. -/
theorem sendIssueHoldsTheWireBytes : Obligations.SendIssueHoldsTheWireBytes := by
  unfold Obligations.SendIssueHoldsTheWireBytes
  refine ⟨fun s hs => ⟨_, rfl, ?fields⟩, fun s t hs h => ?count⟩
  case fields =>
    rw [exec_txSend hs, ← wireBytes_eq_fields]
    rfl
  case count =>
    rw [eq_sendIssue_of_exec hs h, length_sendIssue_txBytes]
    refine ⟨rfl, fun hhw => ?_⟩
    have hlen := payloadLen_lt s.bundle.frame.payloadLen
    rw [hhw, wireLength_hw]
    omega

/-- Settles O60, from the frame of TX.SEND. -/
theorem sendIssueFrame : Obligations.SendIssueFrame := by
  unfold Obligations.SendIssueFrame
  intro s t h
  have hblock := exec_txSend_block h
  exact ⟨hblock, exec_cfg h, loads_eq_of_ring_of_rx (congrArg Block.ring hblock) (congrArg Block.rx hblock)⟩

end Sys2Proof.Machine
end

section
/-! A send in progress (44_datalink_tx.md R224 to R229): an equation for each answer of the sink and for the completion, runs
of attempts that the sink answers alike, and the steps of the two ports meanwhile. -/

namespace Sys2Proof.Machine

/-! ### The sink's answer -/

section
variable {s : State}

theorem sinkAnswer_planned {a : SinkAnswer} {rest : List SinkAnswer} (h : s.sinkIn = a :: rest) :
    s.sinkAnswer = (a, { s with sinkIn := rest }) := by
  unfold State.sinkAnswer
  rw [h]

/-- With no plan left, the answer is the next free value, as if it alone were planned. -/
theorem sinkAnswer_free (h : s.sinkIn = []) : s.sinkAnswer =
    ({ s with sinkIn := [Config.freeSinkAnswer s.freeIx], freeIx := s.freeIx + 1 } : State).sinkAnswer := by
  have hkept : ({ s with freeIx := s.freeIx + 1 } : State) = { s with sinkIn := [], freeIx := s.freeIx + 1 } := by rw [← h]
  rw [sinkAnswer_planned (s := { s with sinkIn := [_], freeIx := _ }) rfl, ← hkept]
  unfold State.sinkAnswer
  rw [h]

/-! ### One step of a send -/

section
variable {b : Byte} (hb : s.txBytes[s.txIdx.toNat]? = some b)
include hb

/-- While a byte is left, a step is the attempt for it. -/
theorem sendStep_attempt : s.sendStep = s.sinkAnswer.2.sendAnswered b s.sinkAnswer.1 := by
  unfold State.sendStep
  rw [hb]

theorem sendStep_planned {a : SinkAnswer} {rest : List SinkAnswer} (h : s.sinkIn = a :: rest) :
    s.sendStep = ({ s with sinkIn := rest } : State).sendAnswered b a := by
  rw [sendStep_attempt hb, sinkAnswer_planned h]

theorem sendStep_free (h : s.sinkIn = []) : s.sendStep =
    ({ s with sinkIn := [Config.freeSinkAnswer s.freeIx], freeIx := s.freeIx + 1 } : State).sendStep := by
  rw [sendStep_attempt hb, sinkAnswer_free h]
  exact (sendStep_attempt (s := { s with sinkIn := [Config.freeSinkAnswer s.freeIx], freeIx := s.freeIx + 1 }) hb).symm

end

/-- With no byte left, a step is the normal completion. -/
theorem sendStep_complete (h : s.txBytes.length ≤ s.txIdx.toNat) : s.sendStep = s.sendClear.reply .consumer .sent .ok := by
  unfold State.sendStep
  rw [List.getElem?_eq_none h]

/-- Within a wire frame the index does not overflow. -/
theorem txIdx_next_toNat {n : Nat} (hlt : s.txIdx.toNat < n) (hn : n ≤ 269) : (s.txIdx + 1).toNat = s.txIdx.toNat + 1 := by
  rw [inLen_next_toNat, Nat.mod_eq_of_lt (by omega)]

end

/-- Settles O44: the planned answer by case, and the free one as if it were planned. -/
theorem sendAttemptFollowsTheSinksAnswer : Obligations.SendAttemptFollowsTheSinksAnswer := by
  unfold Obligations.SendAttemptFollowsTheSinksAnswer
  exact fun s b rest hb => ⟨sendStep_planned hb, sendStep_planned hb, fun e => sendStep_planned hb,
    fun hplan => ⟨_, sendStep_free hb hplan⟩⟩

/-- Settles O45, from the completion. -/
theorem sendCompletesWhenAllBytesAreAccepted : Obligations.SendCompletesWhenAllBytesAreAccepted :=
  fun _ hall => sendStep_complete hall.ge

/-! ### What the sink has taken -/

@[simp] theorem tookBytes_append (log more : List (Byte × SinkAnswer)) :
    tookBytes (log ++ more) = tookBytes log ++ tookBytes more := by
  induction log with
  | nil => rfl
  | cons attempt log ih =>
    obtain ⟨b, a⟩ := attempt
    cases a <;> simp [tookBytes, ih]

theorem tookBytes_accepted (bytes : List Byte) : tookBytes (bytes.map fun b => (b, .accept)) = bytes := by
  induction bytes with
  | nil => rfl
  | cons b bytes ih => rw [List.map_cons, tookBytes, ih]

theorem tookBytes_retried (n : Nat) (b : Byte) : tookBytes (List.replicate n (b, .retry)) = [] := by
  induction n with
  | zero => rfl
  | succ n ih => rw [List.replicate_succ, tookBytes, ih]

/-- More attempts add to the wire what the sink took in them. -/
theorem wire_of_sinkLog {s t : State} {more : List (Byte × SinkAnswer)} (h : t.sinkLog = s.sinkLog ++ more) :
    t.wire = s.wire ++ tookBytes more := by
  rw [State.wire, h, tookBytes_append]
  rfl

/-- An attempt puts its byte on the wire when the sink accepts it, and nothing otherwise. -/
theorem sendAnswered_wire (s : State) (b : Byte) (a : SinkAnswer) :
    (s.sendAnswered b a).wire = s.wire ++ tookBytes [(b, a)] :=
  wire_of_sinkLog (by cases a <;> rfl)

/-- Settles O46: an attempt by the answer it drew, and the completion behind the last byte. -/
theorem sinkTakesThePrefixSentSoFar : Obligations.SinkTakesThePrefixSentSoFar := by
  unfold Obligations.SinkTakesThePrefixSentSoFar
  rintro s t before hinv hbusy rfl hwire
  obtain ⟨-, -, hlength, hindex⟩ := hinv.tx_progress hbusy
  obtain ⟨b, a, sinkIn, ix, hb, hsend⟩ | ⟨hnone, hsend⟩ := sendStep_cases s
  · have htook : s.sendStep.wire = before ++ (s.txBytes.take s.txIdx.toNat ++ tookBytes [(b, a)]) := by
      rw [hsend, sendAnswered_wire, ← List.append_assoc, ← hwire]
      rfl
    rw [hsend] at htook ⊢
    cases a with
    | accept =>
      obtain ⟨hlt, -⟩ := List.getElem?_eq_some_iff.1 hb
      have hnext : (s.txIdx + 1).toNat = s.txIdx.toNat + 1 :=
        txIdx_next_toNat hlt (hlength.trans (wireLength_le s.cfg 255))
      have htake : s.txBytes.take (s.txIdx + 1).toNat = s.txBytes.take s.txIdx.toNat ++ [b] := by
        rw [hnext, List.take_add_one, hb]
        rfl
      exact .inl ⟨hbusy, rfl, htook.trans (congrArg (before ++ ·) htake.symm), rfl⟩
    | retry => exact .inl ⟨hbusy, rfl, htook.trans (congrArg (before ++ ·) (List.append_nil _)), rfl⟩
    | error e => exact .inr (.inr ⟨rfl, ⟨e, rfl⟩, htook.trans (congrArg (before ++ ·) (List.append_nil _))⟩)
  · have hall : s.txBytes.take s.txIdx.toNat = s.txBytes := List.take_of_length_le (List.getElem?_eq_none_iff.1 hnone)
    rw [hall] at hwire
    rw [hsend]
    exact .inr (.inl ⟨rfl, rfl, hwire⟩)

/-! ### Runs of attempts -/

section
variable {rest : List SinkAnswer}

/-- Against a sink that accepts them, the bytes left are offered one after the other, each once. -/
theorem sendSteps_accepted (n : Nat) {s : State} (hplan : s.sinkIn = List.replicate n .accept ++ rest)
    (hlength : s.txBytes.length ≤ 269) (hn : s.txIdx.toNat + n = s.txBytes.length) :
    State.sendSteps n s = { s with
      sinkIn := rest, sinkLog := s.sinkLog ++ (s.txBytes.drop s.txIdx.toNat).map fun b => (b, .accept),
      txIdx := BitVec.ofNat 16 s.txBytes.length } := by
  induction n generalizing s with
  | zero =>
    have hend : BitVec.ofNat 16 s.txBytes.length = s.txIdx := by rw [← hn]; exact BitVec.ofNat_toNat _ _
    have hnone : s.txBytes.drop s.txIdx.toNat = [] := List.drop_of_length_le hn.ge
    have hrest : s.sinkIn = rest := hplan
    rw [hend, hnone, List.map_nil, List.append_nil, ← hrest]
    rfl
  | succ n ih =>
    have hlt : s.txIdx.toNat < s.txBytes.length := by omega
    have hnext := txIdx_next_toNat hlt hlength
    have hn' : (s.txIdx + 1).toNat + n = s.txBytes.length := by omega
    have hstep : s.sendStep = { s with
        sinkIn := List.replicate n .accept ++ rest, sinkLog := s.sinkLog ++ [(s.txBytes[s.txIdx.toNat], .accept)],
        txIdx := s.txIdx + 1 } := sendStep_planned (List.getElem?_eq_getElem hlt) hplan
    rw [State.sendSteps, hstep, ih]
    case hplan => rfl
    case hlength => exact hlength
    case hn => exact hn'
    simp only [hnext, List.drop_eq_getElem_cons hlt, List.map_cons, List.append_assoc, List.singleton_append]

/-- A sink that answers RETRY is offered the same byte again. -/
theorem sendSteps_retried (n : Nat) {s : State} {b : Byte} (hplan : s.sinkIn = List.replicate n .retry ++ rest)
    (hb : s.txBytes[s.txIdx.toNat]? = some b) :
    State.sendSteps n s = { s with sinkIn := rest, sinkLog := s.sinkLog ++ List.replicate n (b, .retry) } := by
  induction n generalizing s with
  | zero =>
    have hrest : s.sinkIn = rest := hplan
    rw [List.replicate_zero, List.append_nil, ← hrest]
    rfl
  | succ n ih =>
    have hstep : s.sendStep = { s with
        sinkIn := List.replicate n .retry ++ rest, sinkLog := s.sinkLog ++ [(b, .retry)] } := sendStep_planned hb hplan
    rw [State.sendSteps, hstep, ih]
    case hplan => rfl
    case hb => exact hb
    simp only [List.replicate_succ, List.append_assoc, List.singleton_append]

theorem sendSteps_succ (n : Nat) (s : State) : State.sendSteps (n + 1) s = (State.sendSteps n s).sendStep := by
  induction n generalizing s with
  | zero => rfl
  | succ n ih => exact ih s.sendStep

end

/-- Settles O47: the accepted attempts, and then the completion. -/
theorem sendToAnAcceptingSinkPutsTheFrameOnTheWire : Obligations.SendToAnAcceptingSinkPutsTheFrameOnTheWire := by
  unfold Obligations.SendToAnAcceptingSinkPutsTheFrameOnTheWire
  intro s t rest hs h hplan
  obtain rfl := eq_sendIssue_of_exec hs h
  have hlength := length_sendIssue_txBytes s
  have hmax := wireLength_le s.cfg s.bundle.frame.payloadLen
  have hsent := sendSteps_accepted (s := s.sendIssue) _ hplan (hlength.trans_le hmax) ((Nat.zero_add _).trans hlength.symm)
  refine ⟨_, rfl, ?_⟩
  rw [sendSteps_succ, hsent, sendStep_complete (by rw [BitVec.toNat_ofNat, Nat.mod_eq_of_lt (by omega)])]
  refine ⟨?wire, rfl, rfl, rfl, rfl, rfl⟩
  case wire => exact (wire_of_sinkLog rfl).trans (congrArg (s.wire ++ ·) (tookBytes_accepted _))

/-- Settles O48, from the run of retried attempts. -/
theorem retryingSinkKeepsTheSendWaiting : Obligations.RetryingSinkKeepsTheSendWaiting := by
  unfold Obligations.RetryingSinkKeepsTheSendWaiting
  intro n s rest _ _ hleft hplan
  refine ⟨_, rfl, ?_⟩
  rw [sendSteps_retried n hplan (List.getElem?_eq_getElem hleft)]
  refine ⟨rfl, ?wire, rfl, rfl⟩
  case wire => rw [wire_of_sinkLog rfl, tookBytes_retried, List.append_nil]

/-! ### The ports while a send is in progress -/

section
variable {s t : State}

/-- The choice of a side neither takes a request nor ends a send. -/
@[simp] theorem nextTurn_fields (s : State) :
    s.nextTurn.2.txBusy = s.txBusy ∧ s.nextTurn.2.pReqs = s.pReqs ∧ s.nextTurn.2.qReqs = s.qReqs := by
  obtain ⟨turns, ix, hs⟩ := nextTurn_state s
  rw [hs]
  exact ⟨rfl, rfl, rfl⟩

@[simp] theorem sendStep_qReqs (s : State) : s.sendStep.qReqs = s.qReqs := by
  obtain ⟨b, a, sinkIn, ix, -, hsend⟩ | ⟨-, hsend⟩ := sendStep_cases s <;> rw [hsend]
  · cases a <;> rfl
  · rfl

theorem consumerStepBy_busy {serve : State → Request → Host.Outcome State Fault Refusal} (hbusy : s.txBusy = true) :
    s.consumerStepBy serve = .next s.sendStep := if_pos hbusy

/-- On either kind of consumer turn, the send in progress goes on. -/
theorem step_busy (hbusy : s.txBusy = true)
    (hturn : s.nextTurn.1 = some .consumer ∨ s.nextTurn.1 = some .consumerMicro) :
    step s = .next s.nextTurn.2.sendStep := by
  have hbusy' : s.nextTurn.2.txBusy = true := by simp [hbusy]
  obtain hturn | hturn := hturn <;> rw [step_of_nextTurn (Prod.ext hturn rfl)]
  · exact consumerStepBy_busy (serve := fun u r => u.serve .consumer r) hbusy'
  · exact consumerStepBy_busy (serve := State.serveMicro) hbusy'

theorem step_busy_qReqs (hbusy : s.txBusy = true) (h : step s = .next t) : t.qReqs = s.qReqs := by
  have hsend (hturn : s.nextTurn.1 = some .consumer ∨ s.nextTurn.1 = some .consumerMicro) : t.qReqs = s.qReqs := by
    rw [step_busy hbusy hturn] at h
    cases h
    simp
  obtain ⟨-, rfl⟩ | ⟨hturn, -⟩ | ⟨hturn, -⟩ | ⟨hturn, -⟩ := step_cases h
  · rfl
  · obtain ⟨-, -, hkept, -⟩ := step_producerFrame hturn h
    exact hkept
  · exact hsend (.inl hturn)
  · exact hsend (.inr hturn)

@[simp] theorem push_pReqs (s : State) (d : Byte) : (s.push d).pReqs = s.pReqs := by
  obtain ⟨-, hpush⟩ | ⟨-, hpush⟩ := push_cases s d <;> rw [hpush] <;> rfl

/-- A request served on the producer port takes no other from it. -/
theorem serve_producer_pReqs {r : Request} (h : s.serve .producer r = .next t) : t.pReqs = s.pReqs := by
  obtain rfl | ⟨i, -, hexec⟩ := serve_cases h
  · rfl
  obtain ⟨hport, rfl⟩ | ⟨-, rfl⟩ := exec_cases hexec
  · obtain ⟨d, rfl⟩ := eq_fifoPush_of_port_producer hport.symm
    exact push_pReqs { s with opPort := .producer, bundle := r.bundle } d
  · rfl

theorem producerStep_pReqs (h : s.producerStep = .next t) : t.pReqs = s.pReqs.tail := by
  obtain ⟨hnone, rfl⟩ | ⟨r, rest, hsome, hserve⟩ := producerStep_cases h
  · rw [hnone]
    rfl
  · rw [hsome]
    exact serve_producer_pReqs (s := { s with pReqs := rest }) hserve

/-- A step of a send reads nothing that a push writes. -/
theorem sendStep_with_fifo (s : State) (m : Memory) (p : Byte) :
    ({ s with ring := m, posIn := p } : State).sendStep = { s.sendStep with ring := m, posIn := p } := by
  cases hb : s.txBytes[s.txIdx.toNat]? with
  | none =>
    have hall := List.getElem?_eq_none_iff.1 hb
    rw [sendStep_complete hall]
    exact sendStep_complete (s := { s with ring := m, posIn := p }) hall
  | some b =>
    have hanswer : ({ s with ring := m, posIn := p } : State).sinkAnswer =
        (s.sinkAnswer.1, { s.sinkAnswer.2 with ring := m, posIn := p }) := by
      unfold State.sinkAnswer
      cases s.sinkIn <;> rfl
    rw [sendStep_attempt hb, sendStep_attempt (s := { s with ring := m, posIn := p }) hb, hanswer]
    cases s.sinkAnswer.1 <;> rfl

end

/-- Settles O49: a consumer turn is a step of the send, and a producer turn keeps to agent P's frame. -/
theorem sendHoldsTheConsumerPortOnly : Obligations.SendHoldsTheConsumerPortOnly := by
  unfold Obligations.SendHoldsTheConsumerPortOnly
  refine ⟨fun s t => step_busy_qReqs, fun s => step_busy, fun s t hbusy hturn h => ?producer, sendStep_with_fifo⟩
  case producer =>
    obtain ⟨hblock, -⟩ := step_producerFrame hturn h
    rw [step_of_producer_turn hturn] at h
    have htail : t.pReqs = s.pReqs.tail := by rw [producerStep_pReqs h]; simp
    exact ⟨(congrArg Block.txBusy hblock).trans hbusy, congrArg Block.txBytes hblock, congrArg Block.txIdx hblock, htail⟩

end Sys2Proof.Machine
end

section
/-! No step of the machine stops it (60_exceptions.md R254, 93_implementation_defined.md section 1): an operation, a served
request and each side's step answer a next state, whatever the state. -/

namespace Sys2Proof.Machine

/-! ### A side with no request -/

section
variable {s : State}

theorem producerStep_no_request (hp : s.pReqs = []) : s.producerStep = .next s := by
  unfold State.producerStep
  rw [hp]

theorem producerStep_request {r : Request} {rest : List Request} (hp : s.pReqs = r :: rest) :
    s.producerStep = ({ s with pReqs := rest } : State).serve .producer r := by
  unfold State.producerStep
  rw [hp]

theorem consumerStepBy_no_request {serve : State → Request → Host.Outcome State Fault Refusal} (hbusy : s.txBusy = false)
    (hphase : s.qPhase = .idle) (hq : s.qReqs = []) : s.consumerStepBy serve = .next s := by
  simp [State.consumerStepBy, hbusy, hphase, hq]

end

/-! ### Requests and steps -/

section
variable (s : State)

theorem serve_answers_next (p : Port) (r : Request) : ∃ t, s.serve p r = .next t := by
  cases hdecode : decode r.word with
  | illegal why => exact ⟨_, serve_of_illegal s p hdecode⟩
  | ok i => exact ⟨_, (serve_of_decode p hdecode).trans (exec_eq_checkPort i _)⟩

theorem serveMicro_answers_next (r : Request) : ∃ t, s.serveMicro r = .next t := by
  unfold State.serveMicro
  split
  case h_1 => exact serve_answers_next s .consumer r
  case h_2 =>
    split
    case h_1 t _ => exact ⟨t, rfl⟩
    case h_2 => exact serve_answers_next s .consumer r

theorem producerStep_answers_next : ∃ t, s.producerStep = .next t := by
  cases hp : s.pReqs with
  | nil => exact ⟨s, producerStep_no_request hp⟩
  | cons r rest =>
    rw [producerStep_request hp]
    exact serve_answers_next _ .producer r

/-- A consumer step answers a next state when the way it serves a request does. -/
theorem consumerStepBy_answers_next {serve : State → Request → Host.Outcome State Fault Refusal}
    (hserve : ∀ u r, ∃ t, serve u r = .next t) : ∃ t, s.consumerStepBy serve = .next t := by
  cases hbusy : s.txBusy with
  | true => exact ⟨s.sendStep, consumerStepBy_busy hbusy⟩
  | false =>
    by_cases hphase : s.qPhase = .idle
    · cases hq : s.qReqs with
      | nil => exact ⟨s, consumerStepBy_no_request hbusy hphase hq⟩
      | cons r rest =>
        rw [consumerStepBy_request hbusy hphase hq]
        exact hserve _ r
    · exact ⟨s.microStep, consumerStepBy_phase hbusy hphase⟩

theorem takeTurn_answers_next (turn : Turn) : ∃ t, s.takeTurn turn = .next t := by
  cases turn with
  | producer => exact producerStep_answers_next s
  | consumer => exact consumerStepBy_answers_next s fun u r => serve_answers_next u .consumer r
  | consumerMicro => exact consumerStepBy_answers_next s serveMicro_answers_next

end

/-- Settles O9: with no turn the state is held, and the step of either side answers a next state. -/
theorem everyStepAnswersANextState : Obligations.EveryStepAnswersANextState := by
  intro s
  cases hturn : s.nextTurn.1 with
  | none => exact ⟨s, step_of_nextTurn_none (Prod.ext hturn rfl)⟩
  | some turn =>
    rw [step_of_nextTurn (Prod.ext hturn rfl)]
    exact takeTurn_answers_next s.nextTurn.2 turn

end Sys2Proof.Machine
end

section
/-! The ghost record is never read (60_exceptions.md R251): each update of the state, each operation and each side's step
does the same whatever the record holds, and leaves no difference but in the record. -/

namespace Sys2Proof.Machine

/-- An update reads no ghost code: from another record its result differs in the record alone. -/
abbrev UpdateIgnoresGhost (f : State → State) : Prop :=
  ∀ (s : State) (g : List OutcomeCode), ∃ g', f { s with ghost := g } = { f s with ghost := g' }

/-- The same of a step, a part of one, or an operation. -/
abbrev StepIgnoresGhost (f : State → Host.Outcome State Fault Refusal) : Prop :=
  ∀ (s t : State) (g : List OutcomeCode), f s = .next t → ∃ g', f { s with ghost := g } = .next { t with ghost := g' }

/-- A step that answers what an update made ignores the record as the update does. -/
theorem exists_next_with_ghost {o : Host.Outcome State Fault Refusal} {t u : State} (ho : o = .next u)
    (h : ∃ g, u = { t with ghost := g }) : ∃ g, o = .next { t with ghost := g } :=
  h.imp fun _ hu => ho.trans (congrArg _ hu)

/-! ### The updates of the state -/

theorem refuse_ignoresGhost (p : Port) (r : Result) (c : OutcomeCode) :
    UpdateIgnoresGhost fun s => s.refuse p r c := by
  intro s g
  cases p <;> exact ⟨_, rfl⟩

theorem push_ignoresGhost (d : Byte) : UpdateIgnoresGhost fun s => s.push d := by
  intro s g
  simp only [State.push]
  split <;> exact ⟨_, rfl⟩

theorem pop_ignoresGhost : UpdateIgnoresGhost State.pop := by
  intro s g
  simp only [State.pop]
  split <;> exact ⟨_, rfl⟩

theorem microStep_ignoresGhost : UpdateIgnoresGhost State.microStep := by
  intro s g
  simp only [State.microStep]
  split
  case h_2 => split <;> exact ⟨_, rfl⟩
  all_goals exact ⟨_, rfl⟩

theorem sendAnswered_ignoresGhost (b : Byte) (a : SinkAnswer) : UpdateIgnoresGhost fun s => s.sendAnswered b a := by
  intro s g
  cases a <;> exact ⟨_, rfl⟩

/-- The sink's answer is drawn from the plan and the counter. -/
theorem sinkAnswer_with_ghost (s : State) (g : List OutcomeCode) :
    ({ s with ghost := g } : State).sinkAnswer = (s.sinkAnswer.1, { s.sinkAnswer.2 with ghost := g }) := by
  unfold State.sinkAnswer
  cases s.sinkIn <;> rfl

theorem sendStep_ignoresGhost : UpdateIgnoresGhost State.sendStep := by
  intro s g
  cases hb : s.txBytes[s.txIdx.toNat]? with
  | none =>
    have hall := List.getElem?_eq_none_iff.1 hb
    rw [sendStep_complete hall, sendStep_complete (s := { s with ghost := g }) hall]
    exact ⟨_, rfl⟩
  | some b =>
    rw [sendStep_attempt hb, sendStep_attempt (s := { s with ghost := g }) hb, sinkAnswer_with_ghost]
    exact sendAnswered_ignoresGhost b s.sinkAnswer.1 s.sinkAnswer.2 g

theorem effect_ignoresGhost (i : Instr) : UpdateIgnoresGhost fun s => effect s i := by
  intro s g
  cases i
  case fifoPush d => exact push_ignoresGhost d s g
  case fifoPop => exact pop_ignoresGhost s g
  all_goals exact ⟨_, rfl⟩

/-! ### Operations, requests and steps -/

theorem exec_ignoresGhost (i : Instr) : StepIgnoresGhost (exec i) := by
  intro s t g h
  obtain ⟨hport, rfl⟩ | ⟨hport, rfl⟩ := exec_cases h
  · exact exists_next_with_ghost (exec_of_port hport) (effect_ignoresGhost i s g)
  · exact exists_next_with_ghost (exec_of_wrong_port hport) (refuse_ignoresGhost _ _ _ s g)

theorem serve_ignoresGhost (p : Port) (r : Request) : StepIgnoresGhost fun s => s.serve p r := by
  intro s t g h
  cases hdecode : decode r.word with
  | illegal why =>
    cases (serve_of_illegal s p hdecode).symm.trans h
    exact exists_next_with_ghost (serve_of_illegal _ p hdecode) (refuse_ignoresGhost p _ _ s g)
  | ok i =>
    simp only [serve_of_decode p hdecode] at h ⊢
    exact exec_ignoresGhost i _ t g h

theorem serveMicro_ignoresGhost (r : Request) : StepIgnoresGhost fun s => s.serveMicro r := by
  intro s t g h
  have hserve := serve_ignoresGhost .consumer r s t g
  unfold State.serveMicro at h ⊢
  cases hdecode : decode r.word with
  | illegal why =>
    simp only [hdecode] at h ⊢
    exact hserve h
  | ok i =>
    simp only [hdecode] at h ⊢
    cases i
    case fifoPop | fifoAvailable =>
      cases h
      exact ⟨g, rfl⟩
    all_goals exact hserve h

theorem producerStep_ignoresGhost : StepIgnoresGhost State.producerStep := by
  intro s t g h
  obtain ⟨hp, rfl⟩ | ⟨r, rest, hp, hserve⟩ := producerStep_cases h
  · exact ⟨g, producerStep_no_request hp⟩
  · rw [producerStep_request (s := { s with ghost := g }) hp]
    exact serve_ignoresGhost .producer r { s with pReqs := rest } t g hserve

/-- A consumer step does not read the record when the way it serves a request does not. -/
theorem consumerStepBy_ignoresGhost {serve : State → Request → Host.Outcome State Fault Refusal}
    (hserve : ∀ r, StepIgnoresGhost fun s => serve s r) : StepIgnoresGhost fun s => s.consumerStepBy serve := by
  intro s t g h
  obtain ⟨hbusy, rfl⟩ | ⟨hbusy, hphase, rfl⟩ | ⟨hbusy, hphase, hq, rfl⟩ | ⟨hbusy, hphase, r, rest, hq, hr⟩ :=
    consumerStepBy_cases h
  · exact exists_next_with_ghost (consumerStepBy_busy hbusy) (sendStep_ignoresGhost s g)
  · exact exists_next_with_ghost (consumerStepBy_phase hbusy hphase) (microStep_ignoresGhost s g)
  · exact ⟨g, consumerStepBy_no_request hbusy hphase hq⟩
  · obtain ⟨g', hr'⟩ := hserve r { s with qReqs := rest } t g hr
    exact ⟨g', (consumerStepBy_request (s := { s with ghost := g }) hbusy hphase hq).trans hr'⟩

theorem takeTurn_ignoresGhost (turn : Turn) : StepIgnoresGhost fun s => s.takeTurn turn := by
  cases turn with
  | producer => exact producerStep_ignoresGhost
  | consumer => exact consumerStepBy_ignoresGhost (serve_ignoresGhost .consumer)
  | consumerMicro => exact consumerStepBy_ignoresGhost serveMicro_ignoresGhost

/-- The choice of a side is made from the plan, the requests and what is in progress. -/
theorem nextTurn_with_ghost (s : State) (g : List OutcomeCode) :
    ({ s with ghost := g } : State).nextTurn = (s.nextTurn.1, { s.nextTurn.2 with ghost := g }) := by
  have hp : ({ s with ghost := g } : State).producerReady = s.producerReady := rfl
  have hq : ({ s with ghost := g } : State).consumerReady = s.consumerReady := rfl
  simp only [State.nextTurn, hp, hq]
  split
  case h_1 => rfl
  case h_2 => split <;> rfl

/-- Settles O55: the same side steps, and its step does not read the record. -/
theorem ghostRecordIsNeverRead : Obligations.GhostRecordIsNeverRead := by
  intro s t g h
  have hturn := nextTurn_with_ghost s g
  cases hside : s.nextTurn.1 with
  | none =>
    rw [step_of_nextTurn_none (Prod.ext hside rfl)] at h
    cases h
    exact ⟨g, step_of_nextTurn_none (hside ▸ hturn)⟩
  | some turn =>
    rw [step_of_nextTurn (Prod.ext hside rfl)] at h
    rw [step_of_nextTurn (hside ▸ hturn)]
    exact takeTurn_ignoresGhost turn s.nextTurn.2 t g h

end Sys2Proof.Machine
end

section
/-! Block reset (70_reset_and_hazards.md R281): the values it leaves, and that they meet the invariant of the machine. -/

namespace Sys2Proof

/-- A space in which nothing has been written reads as its free values. -/
theorem Memory.load_nil (sp : Space) (a : Nat) : Memory.load sp [] a = Config.freshByte sp a := by
  rw [Memory.load, Memory.read?_nil, Option.getD_none, Memory.unlisted]

namespace Machine

/-! ### The checksum registers -/

theorem crcInit_hcrcAlg : crcInit Config.hcrcAlg = 0xFF := by decide

theorem crcInit_crc32Alg : crcInit Config.crc32Alg = 0xFFFFFFFF := by decide +kernel

/-- This hardware's full-frame register starts from the 4-byte algorithm's value. -/
theorem reset_crcfReg : State.reset.crcfReg = 0xFFFFFFFF := by
  calc State.reset.crcfReg
    _ = crcInit Config.crc32Alg := fcrcInit_of_four (c := Config.hw) rfl
    _ = 0xFFFFFFFF := crcInit_crc32Alg

/-- A 1-byte generation that takes `FCRC8` as `HCRC` starts its full-frame register from the same value. -/
theorem resetWith_crcfReg_of_one {c : Config} (hone : c.fcrcBytes = .one) (hfcrc8 : c.fcrc8 = Config.hcrcAlg) :
    (State.resetWith c).crcfReg = 0xFF := by
  calc (State.resetWith c).crcfReg
    _ = (crcInit Config.hcrcAlg).setWidth 32 := (fcrcInit_of_one hone).trans (by rw [hfcrc8])
    _ = 0xFF := by rw [crcInit_hcrcAlg]; decide

/-- Settles O50: the registers hold `crcInit` of their algorithms, the cursors and the serializer are zero, and nothing has
been written in either space. -/
theorem blockResetLeavesTheSpecsValues : Obligations.BlockResetLeavesTheSpecsValues := by
  refine ⟨crcInit_hcrcAlg, reset_crcfReg, rfl, rfl, rfl, rfl, rfl, rfl, ?ring, ?rxpay, ?one⟩
  case ring => exact Memory.load_nil .ring
  case rxpay => exact Memory.load_nil .rxpay
  case one => exact fun _ => resetWith_crcfReg_of_one

/-! ### The invariant -/

/-- The FIFO is empty after block reset. -/
@[simp] theorem resetWith_held (c : Config) : (State.resetWith c).held = 0 := by
  rw [State.held, fifoCount_eq]
  exact congrArg BitVec.toNat (BitVec.sub_self 0)

/-- The frame with no byte written is a frame of every generation. -/
theorem blank_wf (c : Config) : Frame.blank.wf c := ⟨Memory.nil_wf _, BitVec.zero_and⟩

/-- After block reset the FIFO is empty, the parser is at the start of a frame, and nothing is in progress. -/
theorem resetWith_inv (c : Config) : (State.resetWith c).Inv :=
  have hrx : RxOk c 0 Frame.blank := rxOk_zero (blank_wf c)
  { ring_wf := Memory.nil_wf _
    slots_written := fun j hj => absurd (resetWith_held c ▸ hj) j.not_lt_zero
    rx_wf := hrx.wf
    rx_position := hrx.position
    rx_header := hrx.header
    crcf_width := fcrcInit_masked c
    tx_clear := fun _ => ⟨rfl, rfl⟩
    tx_progress := fun hbusy => absurd hbusy Bool.false_ne_true
    phase_ok := trivial }

/-- Settles O51: this hardware is one of the generations. -/
theorem invariantHoldsAtReset : Obligations.InvariantHoldsAtReset := ⟨resetWith_inv Config.hw, resetWith_inv⟩

end Machine
end Sys2Proof
end
